-- ==== Sys2Proof/Word.lean ====
section
/-! DEFINITION. The words of LCD4-CORE: bytes, nibbles and the 32-bit command word (00_scope.md R10, R11). -/

namespace Sys2Proof

/-- An unsigned 8-bit value 0..255 (R10). -/
abbrev Byte := BitVec 8

/-- An unsigned 4-bit value 0..15 (R10). -/
abbrev Nibble := BitVec 4

/-- A command word as the host puts it on the command port (30_encoding.md R46). -/
abbrev CommandWord := BitVec 32

end Sys2Proof
end

