-- ==== Sys2Proof/Machine/LcdState.lean ====
section
/-! DEFINITION. The state of the LCD controller, the passive agent on the other side of the bus (10_state.md R27, R28).
The block keeps no copy of any of it. -/

namespace Sys2Proof.Machine

/-- The LCD's interface width and nibble phase (R28, R78, R83). -/
inductive Interface where
  /-- 8-bit interface: every strobe is a whole byte. -/
  | eightBit
  /-- 4-bit interface; `pending` is the high nibble already taken in, if the next strobe is a low nibble. -/
  | fourBit (pending : Option Nibble)
  deriving DecidableEq, Repr, Inhabited

/-- The address target and the address counter (R28, R37): 7 bits for DDRAM, 6 bits for CGRAM. -/
inductive AddressCounter where
  | ddram (a : BitVec 7)
  | cgram (a : BitVec 6)
  deriving DecidableEq, Repr, Inhabited

/-- The HD44780-compatible LCD controller as far as the spec describes it (R27, R28, R37, R73). -/
structure Lcd where
  /-- Interface width and nibble phase. -/
  iface : Interface
  /-- An instruction or data write is still executing (R28). -/
  busy : Bool
  /-- The instruction register: the last byte taken in with RS = Instruction (R27, R120). -/
  ir : Byte
  /-- The data register: the last byte taken in with RS = Data (R27, R120). -/
  dr : Byte
  /-- Address target and address counter. -/
  ac : AddressCounter
  /-- Display data RAM, character codes at 0x00..0x7F. -/
  ddram : Vector Byte 128
  /-- Character generator RAM, 0x00..0x3F; glyph slot `k` is rows `8k .. 8k+7`. -/
  cgram : Vector Byte 64
  /-- I/D: the counter increments after each data byte (otherwise it decrements). -/
  increment : Bool
  /-- S: the display shifts with each data byte. -/
  shiftOnWrite : Bool
  /-- D: the display is on. -/
  displayOn : Bool
  /-- C: the cursor is shown. -/
  cursorOn : Bool
  /-- B: the cursor position blinks. -/
  blinkOn : Bool
  /-- N: two display lines (otherwise one). -/
  twoLines : Bool
  /-- F: 5×10 font (otherwise 5×8). -/
  font5x10 : Bool
  /-- Net display shift, in cells to the right. -/
  shift : Int
  deriving DecidableEq, Repr, Inhabited

end Sys2Proof.Machine
end

