-- ==== Sys2Proof/Config.lean ====
section
/-! DEFINITION. The configuration record of the block (00_scope.md R7) and the free values: what the spec leaves open
stays without a value here. -/

namespace Sys2Proof

/-- The parameters of R7. They are fixed for the life of the device; no command changes them. -/
structure Config where
  /-- T_POWER_ON_MS: wait before the first transfer of INIT. -/
  tPowerOn : Nat
  /-- T_SETTLE_MS: settle wait after every nibble strobe but CLEAR_DISPLAY's second. -/
  tSettle : Nat
  /-- T_CLEAR_MS: settle wait after the low nibble of CLEAR_DISPLAY. -/
  tClear : Nat
  /-- LINE2_CMD: the instruction byte LINE2 sends. -/
  line2Cmd : Byte
  /-- INIT_ENTRY_MODE: the entry-mode-set byte INIT sends. -/
  initEntryMode : Byte
  /-- INIT_DISPLAY_CONTROL: the display-control byte INIT sends. -/
  initDisplayControl : Byte
  /-- OPMEM_SIZE: bytes of host operand memory. -/
  opmemSize : Nat
  deriving DecidableEq, Repr

/-- The defaults of R7. DESIGN CHOICE: OPMEM_SIZE is OPEN in the spec (92 D4); 256 is the size 95_test_vectors.md uses
where a vector says nothing else. Unsafe for a claim about one size; see notes/assumptions/2.md. -/
def Config.default : Config where
  tPowerOn := 20
  tSettle := 5
  tClear := 10
  line2Cmd := 0xC0
  initEntryMode := 0x06
  initDisplayControl := 0x0F
  opmemSize := 256

/-- BUS_WIDTH, fixed (R7). -/
def Config.busWidth : Nat := 4
/-- GLYPH_SLOTS, fixed (R7). -/
def Config.glyphSlots : Nat := 8
/-- GLYPH_ROWS, fixed (R7). -/
def Config.glyphRows : Nat := 8
/-- GLYPH_ROW_MAX, fixed (R7). -/
def Config.glyphRowMax : Nat := 31

/-! Free values. Nothing constrains them; the argument is the counter `fresh` of the state or the operand. -/

/-- The LCD in a state the spec leaves open: at power-up (R125, 93 U19), after a strobe before the first INIT (93 U20),
after a byte that breaks its protocol (93 U12), after a strobe that finds it busy (93 U23). Safe; notes/assumptions/10.md,
13.md, 14.md, 35.md, 36.md. -/
opaque Config.anyLcd : Nat → Machine.Lcd

/-- What an LCD in 8-bit mode reads on DB3..DB0, which the block does not drive (R78). Safe; notes/assumptions/15.md. -/
opaque Config.undrivenNibble : Nat → Nibble

/-- The DDRAM address counter after it is moved past either end (R74 states no result). Safe; notes/assumptions/16.md. -/
opaque Config.ddramPastEnd : Nat → BitVec 7

/-- The CGRAM address counter after it is moved past either end (R74 states no result). Safe; notes/assumptions/16.md. -/
opaque Config.cgramPastEnd : Nat → BitVec 6

/-- The display shift after a data byte with S = 1 (R73 gives neither amount nor direction). Safe; notes/assumptions/18.md. -/
opaque Config.shiftAfterData : Nat → Int

/-- The pattern of a character in the LCD's character ROM, by font (F of R73) and code (R77, 93 U22). Safe;
notes/assumptions/31.md. -/
opaque Config.romPattern : Bool → Byte → List (BitVec 5)

end Sys2Proof
end

