-- ==== Sys2Proof/Syntax.lean ====
section
/-! DEFINITION. The instructions: one constructor per row of spec/opcode_table.json, and the assembler lines of
30_encoding.md R56 and R57.

Seven rows are the commands of the block (format CMD, 32 bits). Eight rows are the instruction bytes of the LCD
(format LCD8, 8 bits; 41_lcd_instruction_codes.md R72), which the block sends without reading them (R71) and the LCD
executes. Every operand has exactly the width of its field, so an operand out of range cannot be written. -/

namespace Sys2Proof

/-- The instructions of spec/opcode_table.json, in its order. -/
inductive Instr where
  /-- INIT, `initialize()` (42_init_fsm.md R79). -/
  | init
  /-- WINS, `write_instruction(code)` (40_bus_serializer.md R68). -/
  | wins (imm : Byte)
  /-- WDAT, `write_data(byte)` (40_bus_serializer.md R69). -/
  | wdat (imm : Byte)
  /-- WSTR, `write_string(text)` (43_text_commands.md R89). -/
  | wstr (addr : BitVec 16)
  /-- CLRH, `clear_and_home()` (43_text_commands.md R93). -/
  | clrh
  /-- LINE2, `move_to_line_2()` (43_text_commands.md R95). -/
  | line2
  /-- LDGLY, `load_glyph_set(set)` (44_cgram_programmer.md R97). -/
  | ldgly (cnt : BitVec 4) (addr : BitVec 16)
  /-- CLEAR_DISPLAY, `0000 0001` (R72). -/
  | clearDisplay
  /-- RETURN_HOME, `0000 001x` (R72); `x` is the don't-care bit. -/
  | returnHome (x : BitVec 1)
  /-- ENTRY_MODE_SET, `0000 01 I/D S` (R72, R73). -/
  | entryModeSet (increment shift : Bool)
  /-- DISPLAY_CONTROL, `0000 1 D C B` (R72, R73). -/
  | displayControl (display cursor blink : Bool)
  /-- CURSOR_DISPLAY_SHIFT, `0001 S/C R/L x x` (R72, R73). -/
  | cursorDisplayShift (display right : Bool) (x : BitVec 2)
  /-- FUNCTION_SET, `001 DL N F x x` (R72, R73). -/
  | functionSet (eightBit twoLines font5x10 : Bool) (x : BitVec 2)
  /-- SET_CGRAM_ADDR, `01 A5..A0` (R72, R73). -/
  | setCgramAddr (a : BitVec 6)
  /-- SET_DDRAM_ADDR, `1 A6..A0` (R72, R73). -/
  | setDdramAddr (a : BitVec 7)
  deriving DecidableEq, Repr

/-- The instruction classes of the LCD by name, as `WINS <NAME>` writes them (R57, R72). -/
inductive LcdName where
  | clearDisplay | returnHome | entryModeSet | displayControl
  | cursorDisplayShift | functionSet | setCgramAddr | setDdramAddr
  deriving DecidableEq, Repr

/-- One line of the assembler's text form (R56) or a pseudo-instruction (R57). Its operands are numbers as written,
not yet checked against their field's range. -/
inductive AsmLine where
  | init
  | wins (byte : Nat)
  | wdat (byte : Nat)
  | wstr (addr : Nat)
  | clrh
  | line2
  | ldgly (count addr : Nat)
  | putc (byte : Nat)
  | clear
  | home
  | retdd
  | setdd (a : Nat)
  | setcg (a : Nat)
  | winsName (name : LcdName)
  deriving DecidableEq, Repr

end Sys2Proof
end

