-- ==== Sys2Proof/WellFormed.lean ====
section
/-! DEFINITION. Which configurations are legal (00_scope.md R8, 41_lcd_instruction_codes.md R76) and which assembler
lines the assembler accepts (30_encoding.md R56, R57).

`Instr` needs no check of its own: each operand has the width of its field (R47: "no encoding can carry a byte above
255"), and an argument that is illegal although its encoding is legal (R53) is the command's business, not the syntax's. -/

namespace Sys2Proof

/-- R8: a configuration is legal only if all of these hold; R76 gives the class ranges. -/
def Config.legal (c : Config) : Bool :=
  decide (1 ≤ c.tSettle) && decide (c.tSettle < c.tClear) && decide (1 ≤ c.tPowerOn) &&
  (decide (1 ≤ c.opmemSize) && decide (c.opmemSize ≤ 65536)) &&
  decide (0x80 ≤ c.line2Cmd.toNat) &&
  (decide (0x04 ≤ c.initEntryMode.toNat) && decide (c.initEntryMode.toNat ≤ 0x07)) &&
  (decide (0x08 ≤ c.initDisplayControl.toNat) && decide (c.initDisplayControl.toNat ≤ 0x0F))

/-- R56: `<byte>` is 0..255, `<addr>` is 0..65535, `<count>` is 0..15; R57: `a` in 0..0x7F for SETDD, 0..0x3F for SETCG. -/
def AsmLine.wf : AsmLine → Bool
  | .init | .clrh | .line2 | .clear | .home | .retdd | .winsName _ => true
  | .wins b | .wdat b | .putc b => decide (b ≤ 255)
  | .wstr a => decide (a ≤ 65535)
  | .ldgly n a => decide (n ≤ 15) && decide (a ≤ 65535)
  | .setdd a => decide (a ≤ 0x7F)
  | .setcg a => decide (a ≤ 0x3F)

end Sys2Proof
end

