-- ==== Sys2Proof/Decode.lean ====
section
/-! DEFINITION. The decoder and the encoder: of command words (30_encoding.md R46 to R52) and of LCD instruction bytes
(41_lcd_instruction_codes.md R72, R73). -/

namespace Sys2Proof

/-- `hi(b) = b[7:4]` (R11). -/
def hi (b : Byte) : Nibble := b.extractLsb' 4 4

/-- `lo(b) = b[3:0]` (R11). -/
def lo (b : Byte) : Nibble := b.extractLsb' 0 4

/-- `{h, l}`, the byte with high nibble `h` and low nibble `l` (R10, R11). -/
def joinNibbles (h l : Nibble) : Byte := h ++ l

/-- `OP = w[31:28]` (R46). -/
def opField (w : CommandWord) : BitVec 4 := w.extractLsb' 28 4
/-- `CNT = w[27:24]` (R46). -/
def cntField (w : CommandWord) : BitVec 4 := w.extractLsb' 24 4
/-- `ADDR = w[23:8]` (R46). -/
def addrField (w : CommandWord) : BitVec 16 := w.extractLsb' 8 16
/-- `IMM = w[7:0]` (R46). -/
def immField (w : CommandWord) : Byte := w.extractLsb' 0 8

/-- Why a command word spells no command. Both give status ILLEGAL_COMMAND (60_exceptions.md R110). -/
inductive Illegal where
  /-- R51: `OP` is 0x0 or 0x8..0xF. -/
  | reservedOp
  /-- R52: a field the command must leave zero is not zero. -/
  | nonzeroField
  deriving DecidableEq, Repr

/-- What a command word decodes to. -/
inductive Decoded where
  | command (i : Instr)
  | illegal (why : Illegal)
  deriving DecidableEq, Repr

/-- Accept `i` if the fields it must leave zero are zero (R52). -/
def decodeIf (zero : Bool) (i : Instr) : Decoded :=
  if zero then .command i else .illegal .nonzeroField

/-- The decoder of R50, total on every 32-bit word. -/
def decodeCommand (w : CommandWord) : Decoded :=
  let cnt := cntField w
  let addr := addrField w
  let imm := immField w
  if opField w = 0x1 then decodeIf (cnt == 0 && addr == 0 && imm == 0) .init
  else if opField w = 0x2 then decodeIf (cnt == 0 && addr == 0) (.wins imm)
  else if opField w = 0x3 then decodeIf (cnt == 0 && addr == 0) (.wdat imm)
  else if opField w = 0x4 then decodeIf (cnt == 0 && imm == 0) (.wstr addr)
  else if opField w = 0x5 then decodeIf (cnt == 0 && addr == 0 && imm == 0) .clrh
  else if opField w = 0x6 then decodeIf (cnt == 0 && addr == 0 && imm == 0) .line2
  else if opField w = 0x7 then decodeIf (imm == 0) (.ldgly cnt addr)
  else .illegal .reservedOp

/-- The LCD's decoder, on the two nibbles of an instruction byte: the class of the most significant 1 bit (R72), its
fields as R73 gives them. The high nibble is looked at first. The byte 0x00 belongs to no class. -/
def decodeLcdNibbles (h l : Nibble) : Option Instr :=
  if h.getLsbD 3 then some (.setDdramAddr (h.extractLsb' 0 3 ++ l))
  else if h.getLsbD 2 then some (.setCgramAddr (h.extractLsb' 0 2 ++ l))
  else if h.getLsbD 1 then
    some (.functionSet (h.getLsbD 0) (l.getLsbD 3) (l.getLsbD 2) (l.extractLsb' 0 2))
  else if h.getLsbD 0 then
    some (.cursorDisplayShift (l.getLsbD 3) (l.getLsbD 2) (l.extractLsb' 0 2))
  else if l.getLsbD 3 then some (.displayControl (l.getLsbD 2) (l.getLsbD 1) (l.getLsbD 0))
  else if l.getLsbD 2 then some (.entryModeSet (l.getLsbD 1) (l.getLsbD 0))
  else if l.getLsbD 1 then some (.returnHome (l.extractLsb' 0 1))
  else if l.getLsbD 0 then some .clearDisplay
  else none

/-- The LCD's decoder on a whole instruction byte (R72). -/
def decodeLcdByte (b : Byte) : Option Instr := decodeLcdNibbles (hi b) (lo b)

/-- The words of an instruction: a 32-bit command word, or an 8-bit LCD instruction byte. -/
inductive Encoded where
  | word (w : CommandWord)
  | byte (b : Byte)
  deriving DecidableEq, Repr

/-- How many bits spec/opcode_table.json gives the row ("width"). -/
def Encoded.nbits : Encoded → Nat
  | .word _ => 32
  | .byte _ => 8

/-- The bits as a number, bit 0 least significant. -/
def Encoded.toNat : Encoded → Nat
  | .word w => w.toNat
  | .byte b => b.toNat

/-- A command word from its four fields (R46). -/
def commandWord (op cnt : BitVec 4) (addr : BitVec 16) (imm : Byte) : CommandWord :=
  op ++ cnt ++ addr ++ imm

/-- The encoder: command words by R46 and R48, LCD bytes by the patterns of R72. -/
def encode : Instr → Encoded
  | .init => .word (commandWord 0x1 0 0 0)
  | .wins imm => .word (commandWord 0x2 0 0 imm)
  | .wdat imm => .word (commandWord 0x3 0 0 imm)
  | .wstr addr => .word (commandWord 0x4 0 addr 0)
  | .clrh => .word (commandWord 0x5 0 0 0)
  | .line2 => .word (commandWord 0x6 0 0 0)
  | .ldgly cnt addr => .word (commandWord 0x7 cnt addr 0)
  | .clearDisplay => .byte 0x01
  | .returnHome x => .byte (0b0000001#7 ++ x)
  | .entryModeSet i s => .byte (0b000001#6 ++ BitVec.ofBool i ++ BitVec.ofBool s)
  | .displayControl d c b =>
    .byte (0b00001#5 ++ BitVec.ofBool d ++ BitVec.ofBool c ++ BitVec.ofBool b)
  | .cursorDisplayShift d r x => .byte (0b0001#4 ++ BitVec.ofBool d ++ BitVec.ofBool r ++ x)
  | .functionSet e n f x =>
    .byte (0b001#3 ++ BitVec.ofBool e ++ BitVec.ofBool n ++ BitVec.ofBool f ++ x)
  | .setCgramAddr a => .byte (0b01#2 ++ a)
  | .setDdramAddr a => .byte (0b1#1 ++ a)

/-- The instruction a command word spells, if any. -/
def Decoded.toOption : Decoded → Option Instr
  | .command i => some i
  | .illegal _ => none

/-- The decoder on an instruction as spec/opcode_table.json writes it: 8 bits are an LCD instruction byte, 32 bits a
command word; no row has another width. -/
def decodeTableWord (nbits w : Nat) : Option Instr :=
  if nbits = 8 then decodeLcdByte (BitVec.ofNat 8 w)
  else if nbits = 32 then (decodeCommand (BitVec.ofNat 32 w)).toOption
  else none

end Sys2Proof
end

