-- ==== Sys2Proof/Machine/State.lean ====
section
/-! DEFINITION. The machine's state as plain data: the block (10_state.md R17), its configuration (00_scope.md R7), the
host's side (20_memory.md R30, R31; 10_state.md R24) and the LCD (10_state.md R28). Also the reasons a step can stop. -/

namespace Sys2Proof.Machine

/-- The instruction/data mode, `Instruction = 0`, `Data = 1` on the RS pin (R12). -/
inductive Mode where
  | instruction
  | data
  deriving DecidableEq, Repr

/-- The bus events (R58 to R61). -/
inductive Event where
  /-- `set_mode_line(m)` (R58). -/
  | setMode (m : Mode)
  /-- `set_data_lines(n)` (R59). -/
  | setData (n : Nibble)
  /-- `pulse_strobe()` (R60). -/
  | strobe
  /-- `wait_milliseconds(n)` (R61). -/
  | wait (n : Nat)
  deriving DecidableEq, Repr

/-- SEQ (R22): idle, or busy with the events of the trace not yet performed. -/
inductive Seq where
  | idle
  | busy (rest : List Event)
  deriving DecidableEq, Repr

/-- The status of a command (60_exceptions.md R108). The reserved code 3 has no constructor: it is never returned. -/
inductive Status where
  | ok
  | illegalCommand
  | invalidArgument
  deriving DecidableEq, Repr

/-- The 2-bit code of a status (R108). -/
def Status.code : Status → BitVec 2
  | .ok => 0
  | .illegalCommand => 1
  | .invalidArgument => 2

/-- How far the spec states what the LCD does, by the commands issued since power-up. The model's own, DESIGN CHOICE,
notes/assumptions/35.md. -/
inductive LcdSync where
  /-- No INIT since power-up (R87, R126; 93 U20), or the byte 0x00 since the last INIT (93 U12): a strobe leaves the LCD in
  any state. -/
  | unspecified
  /-- A WINS of 0x30..0x3F since the last INIT (R130(a)): the LCD reads whole bytes in 8-bit mode until the next INIT, and
  what it does with them is open (93 U12). -/
  | eightBit
  /-- INIT has been issued, and nothing since that breaks the protocol: the LCD does what R60 and R72 to R78 say. -/
  | inStep
  deriving DecidableEq, Repr

/-- What the host does next. It moves only while the block is Idle (R24, R44). DESIGN CHOICE, notes/assumptions/4.md. -/
inductive HostMove where
  /-- Put a command word on the command port (R24, R46). -/
  | issue (w : CommandWord)
  /-- Write one byte of the operand memory, between commands (R31, R45). -/
  | store (a : Nat) (b : Byte)
  /-- Cycle the power: the block's one reset (R124, R125). -/
  | powerCycle
  deriving DecidableEq, Repr

/-- The host operand memory: the cells that differ from what an unlisted address reads as, addresses strictly rising. -/
abbrev Memory := List Host.Cell

/-- What an operand byte that nothing has written reads as. DESIGN CHOICE: the spec gives the contents no value; 0x00 is
what 95_test_vectors.md lists where a vector says nothing else. Unsafe, notes/assumptions/3.md. -/
def unlistedByte : Byte := 0x00

/-- Everything the spec gives the machine. -/
structure State where
  /-- The configuration record (R7). No step changes it. -/
  cfg : Config
  /-- MODE; drives the RS pin (R19). -/
  mode : Mode
  /-- The E pin (R20). -/
  e : BitVec 1
  /-- DOUT, the level of D[3:0] (R21). -/
  dout : Nibble
  /-- SEQ, the sequencer (R22). -/
  seq : Seq
  /-- The host operand memory (R31). -/
  opmem : Memory
  /-- The host's next moves, first move first (R24, R42, R45). -/
  script : List HostMove
  /-- The statuses returned to the host, oldest first (R24, R108). An observation: the block never reads it. -/
  statuses : List Status
  /-- The bus events performed, oldest first (R5, R14). An observation: the block never reads it. -/
  events : List Event
  /-- The LCD controller (R28). The block never reads it. -/
  lcd : Lcd
  /-- How far the spec states what the LCD does. The model's own; the block never reads it. DESIGN CHOICE,
  notes/assumptions/35.md. -/
  sync : LcdSync
  /-- The model's own counter: the index of the free value drawn last. DESIGN CHOICE, notes/assumptions/10.md. -/
  fresh : Nat
  deriving DecidableEq, Repr

/-- Why the machine stops with a fault. -/
inductive Fault where
  /-- Raised by the host's store (`storeOperand`): the address is at or above OPMEM_SIZE and "holds nothing" (R31).
  Safe: the model stops where the spec says there is no byte. -/
  | operandAddressAbsent (a : Nat)
  deriving DecidableEq, Repr

/-- Why the model does not go on. -/
inductive Refusal where
  /-- Raised by an arm of `exec` whose instruction has no meaning yet. Safe. No arm raises it. -/
  | notModelled (mnemonic : String)
  /-- Raised by `step`: the configuration breaks R8, and "a model refuses an illegal configuration; it does not run it"
  (R8, R76, 93 U18). Safe. -/
  | illegalConfig
  /-- Raised by every command's meaning when the block is Busy: "a host that does it is outside the model" (R24, 93 U16,
  treatment `refuse`). `step` never raises it, since it issues a command only when SEQ is Idle. Safe. -/
  | commandWhileBusy
  deriving DecidableEq, Repr

/-- The machine right after power-on reset (R29, R124), with the default configuration, nothing in the operand memory,
nothing for the host to do, and the LCD in a state the spec leaves open (R125). -/
def State.reset : State where
  cfg := Config.default
  mode := .instruction
  e := 0
  dout := 0x0
  seq := .idle
  opmem := []
  script := []
  statuses := []
  events := []
  lcd := Config.anyLcd 0
  sync := .unspecified
  fresh := 0

end Sys2Proof.Machine
end

