-- ==== Sys2Proof/Machine/Ops.lean ====
section
/-! DEFINITION. The named operations over the operand memory, the registers, the command port and the LCD. -/

namespace Sys2Proof.Machine

/-! ### Operand memory (20_memory.md R30 to R36) -/

/-- The byte the cells give for address `a`. -/
def readCell : Memory → Nat → Byte
  | [], _ => unlistedByte
  | (k, v) :: rest, a => if k = a then v else readCell rest a

/-- Put the cell `(a, b)` before `rest`, unless `b` is what an unlisted address reads as. -/
def consCell (a : Nat) (b : Byte) (rest : Memory) : Memory :=
  if b = unlistedByte then rest else (a, b) :: rest

/-- Write byte `b` at address `a`, keeping the canonical form. -/
def writeCell : Memory → Nat → Byte → Memory
  | [], a, b => consCell a b []
  | (k, v) :: rest, a, b =>
    if a < k then consCell a b ((k, v) :: rest)
    else if a = k then consCell a b rest
    else (k, v) :: writeCell rest a b

/-- The canonical form: addresses strictly rising, no cell equal to what an unlisted address reads as. -/
def Memory.wf : Memory → Bool
  | [] => true
  | (k, v) :: rest => rest.all (fun c => decide (k < c.1)) && v != unlistedByte && Memory.wf rest

/-- Every listed address is below `size`: an address at or above OPMEM_SIZE holds nothing (R31). -/
def Memory.within (size : Nat) (m : Memory) : Bool := m.all (fun c => decide (c.1 < size))

/-- `MemRead(a, 1)` (R32): the byte at `a`, for `a < OPMEM_SIZE`; nothing at or above it (R31). -/
def State.memRead (s : State) (a : Nat) : Option Byte :=
  if a < s.cfg.opmemSize then some (readCell s.opmem a) else none

/-! ### Updates of one piece of state -/

/-- `MODE <- m`. -/
def State.setMode (s : State) (m : Mode) : State := { s with mode := m }
/-- Drive the E pin. -/
def State.setE (s : State) (l : BitVec 1) : State := { s with e := l }
/-- `DOUT <- n`. -/
def State.setDout (s : State) (n : Nibble) : State := { s with dout := n }
/-- `SEQ <- q`. -/
def State.setSeq (s : State) (q : Seq) : State := { s with seq := q }
/-- Replace the operand memory. -/
def State.setOpmem (s : State) (m : Memory) : State := { s with opmem := m }
/-- Replace the host's next moves. -/
def State.setScript (s : State) (ms : List HostMove) : State := { s with script := ms }
/-- Return status `st` to the host (R24). -/
def State.respond (s : State) (st : Status) : State := { s with statuses := s.statuses ++ [st] }
/-- Record that bus event `ev` was performed (R5). -/
def State.record (s : State) (ev : Event) : State := { s with events := s.events ++ [ev] }
/-- Replace the LCD. -/
def State.setLcd (s : State) (l : Lcd) : State := { s with lcd := l }
/-- Record how far the spec states what the LCD does. -/
def State.setSync (s : State) (y : LcdSync) : State := { s with sync := y }
/-- Go on to the next free value. -/
def State.draw (s : State) : State := { s with fresh := s.fresh + 1 }

/-! ### The command port (10_state.md R22 to R24; 60_exceptions.md R109, R115, R116) -/

/-- Answer `t` if SEQ is Idle. A command given to a Busy block is outside the model (R24, 93 U16). -/
def whenIdle (s t : State) : Host.Outcome State Fault Refusal :=
  match s.seq with
  | .idle => .next t
  | .busy _ => .refused .commandWhileBusy

/-- Accept a command: `SEQ <- Busy(trace)` (R22, R23). -/
def accept (trace : List Event) (s : State) : Host.Outcome State Fault Refusal :=
  whenIdle s (s.setSeq (.busy trace))

/-- `raise Reject(st)` (R109): the one way a command fails. The host gets `st`; nothing else changes. It stands where
another machine takes an exception (R115). -/
def reject (st : Status) (s : State) : Host.Outcome State Fault Refusal :=
  whenIdle s (s.respond st)

/-- Accept the command with the trace made from its checked operand, or reject it with the status the check raised. -/
def acceptChecked {α : Type} (checked : Except Status α) (trace : α → List Event) (s : State) :
    Host.Outcome State Fault Refusal :=
  match checked with
  | .ok x => accept (trace x) s
  | .error st => reject st s

/-- `complete` (R23): the trace is empty, so the command ends with status OK and `SEQ <- Idle`. -/
def complete (s : State) : State := (s.setSeq .idle).respond .ok

/-! ### The host's other moves -/

/-- The host writes one byte of its operand memory (R31). An address that holds nothing is a fault. -/
def storeOperand (a : Nat) (b : Byte) (s : State) : Host.Outcome State Fault Refusal :=
  if a < s.cfg.opmemSize then .next (s.setOpmem (writeCell s.opmem a b))
  else .fault (.operandAddressAbsent a)

/-- Power-on reset of the block (R29, R124): MODE, E, DOUT and SEQ take their reset values; no event, no wait. The LCD
is not initialised by it and may be in any state (R125), until the next INIT (R126). The host's memory and moves are the
host's. -/
def powerOnReset (s : State) : State :=
  (((((s.draw.setMode .instruction).setE 0).setDout 0x0).setSeq .idle).setLcd (Config.anyLcd s.draw.fresh)).setSync
    .unspecified

end Sys2Proof.Machine
end

