-- ==== Sys2Proof/Machine/Flags.lean ====
section
/-! DEFINITION. The one flag, MODE, and the output pins driven from the state (10_state.md R19 to R21, R25). There are no
condition codes, no carry, no zero flag and no status register (R25). -/

namespace Sys2Proof.Machine

/-- The bit a mode is on the RS pin: `Instruction = 0`, `Data = 1` (R12). -/
def Mode.level : Mode → BitVec 1
  | .instruction => 0
  | .data => 1

/-- The RS pin, driven from MODE at all times (R19). -/
def State.rs (s : State) : BitVec 1 := s.mode.level

/-- The level of data line D`i` (R59). -/
def State.dataLine (s : State) (i : Fin 4) : Bool := s.dout.getLsbD i

/-- MODE after a trace: the mode of its last `SetMode`, and MODE as it was if the trace has none (R19). -/
def modeAfter : Mode → List Event → Mode
  | m, [] => m
  | _, .setMode m' :: rest => modeAfter m' rest
  | m, _ :: rest => modeAfter m rest

/-- DOUT after a trace: the nibble of its last `SetData`, and DOUT as it was if the trace has none (R21). -/
def doutAfter : Nibble → List Event → Nibble
  | d, [] => d
  | _, .setData n :: rest => doutAfter n rest
  | d, _ :: rest => doutAfter d rest

end Sys2Proof.Machine
end

