-- ==== Sys2Proof/Machine/Operands.lean ====
section
/-! DEFINITION. The operand forms: a string and a glyph set in the operand memory, with the argument checks that read them
(20_memory.md R33, R34; 43_text_commands.md R90; 44_cgram_programmer.md R98 to R101). A check answers the bytes it read:
the snapshot the trace is built from (20_memory.md R44). -/

namespace Sys2Proof.Machine

/-- The scan of R90 from address `a`, `fuel` addresses long: the bytes before the first 0x00, or nothing if there is no
terminator in the memory. -/
def scanString (s : State) : Nat → Nat → Option (List Byte)
  | 0, _ => none
  | fuel + 1, a =>
    match s.memRead a with
    | none => none
    | some b => if b = 0x00 then some [] else (scanString s fuel (a + 1)).map (b :: ·)

/-- `strlen_checked(a)` (R90): the string at `a`, or the rejection. Addresses do not wrap (R36). -/
def readString (s : State) (a : Nat) : Except Status (List Byte) :=
  if s.cfg.opmemSize ≤ a then .error .invalidArgument
  else
    match scanString s (s.cfg.opmemSize - a) a with
    | some bytes => .ok bytes
    | none => .error .invalidArgument

/-- The `len` bytes from address `a` on, if all of them are in the memory. -/
def readBytes (s : State) : Nat → Nat → Option (List Byte)
  | 0, _ => some []
  | len + 1, a =>
    match s.memRead a, readBytes s len (a + 1) with
    | some b, some rest => some (b :: rest)
    | _, _ => none

/-- A row byte is legal if bits 7:5 are clear (R100). -/
def legalRow (b : Byte) : Bool := decide (b.toNat ≤ Config.glyphRowMax)

/-- `check_glyph_set(n, a)` (R101), in its order: the count, the empty set, the range, the rows. It answers the `8n` row
bytes, glyph `k` row `r` at place `8k + r` (R34). -/
def readGlyphSet (s : State) (n a : Nat) : Except Status (List Byte) :=
  if Config.glyphSlots < n then .error .invalidArgument
  else if n = 0 then .ok []
  else if s.cfg.opmemSize < a + Config.glyphRows * n then .error .invalidArgument
  else
    match readBytes s (Config.glyphRows * n) a with
    | some rows => if rows.all legalRow then .ok rows else .error .invalidArgument
    | none => .error .invalidArgument

end Sys2Proof.Machine
end

