-- ==== Sys2Proof/Machine/Bus.lean ====
section
/-! DEFINITION. The 4-bit bus serializer and the mode-strobe sequencer (40_bus_serializer.md), with the commands WINS and
WDAT, which are one byte write each. -/

namespace Sys2Proof.Machine

/-- CLEAR_DISPLAY, 0x01: the key of the long settle wait (R64, R75). -/
def clearDisplayByte : Byte := 0x01

/-- `xfer(m, n, d)`: one nibble transfer (R62). -/
def xfer (m : Mode) (n : Nibble) (d : Nat) : List Event :=
  [.setMode m, .setData n, .strobe, .wait d]

/-- `settle(m, b)`: the wait after the low nibble (R64). -/
def settle (c : Config) (m : Mode) (b : Byte) : Nat :=
  if m = .instruction ∧ b = clearDisplayByte then c.tClear else c.tSettle

/-- `byte(m, b)`: one byte write, high nibble first (R63, R65). -/
def byteWrite (c : Config) (m : Mode) (b : Byte) : List Event :=
  xfer m (hi b) c.tSettle ++ xfer m (lo b) (settle c m b)

/-- How far the spec states what the LCD does once `code` is sent by WINS: 0x30..0x3F leave 8-bit mode until the next INIT
(R130(a)), 0x00 names no instruction (R68); both break the protocol (93 U12). -/
def syncAfterWins (code : Byte) : LcdSync → LcdSync
  | .inStep => if hi code = 0x3 then .eightBit else if code = 0x00 then .unspecified else .inStep
  | .eightBit => .eightBit
  | .unspecified => .unspecified

/-- WINS (R68): send `code` as an instruction byte. -/
def execWins (code : Byte) (s : State) : Host.Outcome State Fault Refusal :=
  accept (byteWrite s.cfg .instruction code) (s.setSync (syncAfterWins code s.sync))

/-- WDAT (R69): send `d` as a data byte. -/
def execWdat (d : Byte) (s : State) : Host.Outcome State Fault Refusal :=
  accept (byteWrite s.cfg .data d) s

end Sys2Proof.Machine
end

