-- ==== Sys2Proof/Machine/Glyphs.lean ====
section
/-! DEFINITION. The CGRAM programmer (44_cgram_programmer.md) and the command LDGLY. -/

namespace Sys2Proof.Machine

/-- `CGRAM_SLOT(k) = 0x40 | (k << 3)` (R75, R103). -/
def cgramSlot (k : Nat) : Byte := 0x40 ||| (BitVec.ofNat 8 k <<< 3)

/-- RETURN_TO_DDRAM (R75, R104). -/
def returnToDdram : Byte := 0x80

/-- The glyphs `k, k+1, ...`, `n` of them, with their rows in order in `rows`: the address instruction, then eight data
bytes (R97, R103). -/
def glyphsTrace (c : Config) : Nat → Nat → List Byte → List Event
  | _, 0, _ => []
  | k, n + 1, rows =>
    byteWrite c .instruction (cgramSlot k)
    ++ (rows.take Config.glyphRows).flatMap (byteWrite c .data)
    ++ glyphsTrace c (k + 1) n (rows.drop Config.glyphRows)

/-- The trace of LDGLY for `n` glyphs: none for an empty set (R105), else the glyphs and the DDRAM return (R97, R104). -/
def ldglyTrace (c : Config) (n : Nat) (rows : List Byte) : List Event :=
  if n = 0 then [] else glyphsTrace c 0 n rows ++ byteWrite c .instruction returnToDdram

/-- LDGLY (R97): the argument check of R101, then the upload. -/
def execLdgly (cnt : BitVec 4) (addr : BitVec 16) (s : State) : Host.Outcome State Fault Refusal :=
  acceptChecked (readGlyphSet s cnt.toNat addr.toNat) (ldglyTrace s.cfg cnt.toNat) s

/-- The states of the upload FSM (R102). -/
inductive GlyphPhase where
  | addr (k : Nat)
  | row (k r : Nat)
  | restore
  deriving DecidableEq, Repr

/-- The action of each state, for row bytes `row k r` (R102). -/
def glyphAction (c : Config) (row : Nat → Nat → Byte) : GlyphPhase → List Event
  | .addr k => byteWrite c .instruction (cgramSlot k)
  | .row k r => byteWrite c .data (row k r)
  | .restore => byteWrite c .instruction returnToDdram

/-- The successor of each state, for `n` glyphs (R102). -/
def glyphNext (n : Nat) : GlyphPhase → Option GlyphPhase
  | .addr k => some (.row k 0)
  | .row k r =>
    if r < 7 then some (.row k (r + 1))
    else if k + 1 < n then some (.addr (k + 1))
    else some .restore
  | .restore => none

/-- The events the FSM emits in `fuel` of its states, from state `p` on. -/
def glyphFsmTrace (c : Config) (row : Nat → Nat → Byte) (n : Nat) : Nat → GlyphPhase → List Event
  | 0, _ => []
  | fuel + 1, p =>
    glyphAction c row p ++ (match glyphNext n p with
      | some q => glyphFsmTrace c row n fuel q
      | none => [])

end Sys2Proof.Machine
end

