-- ==== Sys2Proof/Machine/Lcd.lean ====
section
/-! DEFINITION. The LCD's side: its instructions and its data write (41_lcd_instruction_codes.md R72 to R74, general
knowledge by the spec's own mark; 20_memory.md R37), and what its display shows (R77, R107). Each instruction changes the
LCD alone. -/

namespace Sys2Proof.Machine

/-- Run an instruction on the LCD, which is then executing it (R28). -/
def onLcd (f : Lcd → Lcd) (s : State) : Host.Outcome State Fault Refusal :=
  .next (s.setLcd { f s.lcd with busy := true })

/-- The address counter moved on (`up`) or back by one; past either end of its RAM the spec states no result. -/
def moveCounter (fresh : Nat) (up : Bool) : AddressCounter → AddressCounter
  | .ddram a =>
    if up then (if a = 0x7F then .ddram (Config.ddramPastEnd fresh) else .ddram (a + 1))
    else (if a = 0 then .ddram (Config.ddramPastEnd fresh) else .ddram (a - 1))
  | .cgram a =>
    if up then (if a = 0x3F then .cgram (Config.cgramPastEnd fresh) else .cgram (a + 1))
    else (if a = 0 then .cgram (Config.cgramPastEnd fresh) else .cgram (a - 1))

/-- The LCD's space character, 0x20 (R74). -/
def spaceCode : Byte := 0x20

/-- CLEAR_DISPLAY (R74): a space in all of DDRAM, DDRAM address 0, I/D = 1. -/
def execClearDisplay (s : State) : Host.Outcome State Fault Refusal :=
  onLcd (fun l => { l with ddram := Vector.replicate 128 spaceCode, ac := .ddram 0, increment := true }) s

/-- RETURN_HOME (R74): DDRAM address 0, display shift undone, DDRAM contents unchanged. -/
def execReturnHome (_x : BitVec 1) (s : State) : Host.Outcome State Fault Refusal :=
  onLcd (fun l => { l with ac := .ddram 0, shift := 0 }) s

/-- ENTRY_MODE_SET (R73, R74): sets I/D and S. -/
def execEntryModeSet (increment shift : Bool) (s : State) : Host.Outcome State Fault Refusal :=
  onLcd (fun l => { l with increment := increment, shiftOnWrite := shift }) s

/-- DISPLAY_CONTROL (R73, R74): sets D, C and B. -/
def execDisplayControl (display cursor blink : Bool) (s : State) : Host.Outcome State Fault Refusal :=
  onLcd (fun l => { l with displayOn := display, cursorOn := cursor, blinkOn := blink }) s

/-- CURSOR_DISPLAY_SHIFT (R73, R74): with S/C = 1 the display moves by one, with S/C = 0 the cursor, which stands at the
address counter; R/L = 1 is to the right. -/
def execCursorDisplayShift (display right : Bool) (_x : BitVec 2) (s : State) :
    Host.Outcome State Fault Refusal :=
  onLcd (fun l =>
    { l with
      shift := if display then (if right then l.shift + 1 else l.shift - 1) else l.shift
      ac := if display then l.ac else moveCounter s.fresh right l.ac }) s

/-- FUNCTION_SET (R73, R74, R78): sets DL, N and F. In 4-bit mode the LCD then expects a high nibble (R83;
notes/assumptions/32.md). With DL = 1 this is what INIT does with it (R83); sent by WINS it breaks the protocol, and the
LCD is then as `heldInEightBit` says. -/
def execFunctionSet (eightBit twoLines font5x10 : Bool) (_x : BitVec 2) (s : State) :
    Host.Outcome State Fault Refusal :=
  onLcd (fun l =>
    { l with
      iface := if eightBit then .eightBit else .fourBit none
      twoLines := twoLines
      font5x10 := font5x10 }) s

/-- SET_CGRAM_ADDR (R74): the address counter is `a`, and data bytes go to CGRAM. -/
def execSetCgramAddr (a : BitVec 6) (s : State) : Host.Outcome State Fault Refusal :=
  onLcd (fun l => { l with ac := .cgram a }) s

/-- SET_DDRAM_ADDR (R74): the address counter is `a`, and data bytes go to DDRAM. -/
def execSetDdramAddr (a : BitVec 7) (s : State) : Host.Outcome State Fault Refusal :=
  onLcd (fun l => { l with ac := .ddram a }) s

/-- Write a byte at the address counter in the selected RAM (R37, R74). -/
def storeAtCounter (b : Byte) (l : Lcd) : Lcd :=
  match l.ac with
  | .ddram a => { l with ddram := l.ddram.set a.toNat b (by have := a.isLt; omega) }
  | .cgram a => { l with cgram := l.cgram.set a.toNat b (by have := a.isLt; omega) }

/-- A data byte (R74): written at the address counter, which then moves by I/D; with S = 1 the display shifts (R73). -/
def writeData (fresh : Nat) (b : Byte) (l : Lcd) : Lcd :=
  { storeAtCounter b l with
    ac := moveCounter fresh l.increment l.ac
    shift := if l.shiftOnWrite then Config.shiftAfterData fresh else l.shift
    busy := true }

/-- What one strobe brings the LCD, by its interface: the interface after it and, if the strobe completes a byte, the two
nibbles of that byte. In 8-bit mode the low nibble comes from lines the block does not drive (R78). -/
def takeNibble (n undriven : Nibble) : Interface → Interface × Option (Nibble × Nibble)
  | .eightBit => (.eightBit, some (n, undriven))
  | .fourBit none => (.fourBit (some n), none)
  | .fourBit (some h) => (.fourBit none, some (h, n))

/-- The CGRAM slot a character code selects: codes 0x00..0x07, and 0x08..0x0F again (R77); no slot for other codes. -/
def glyphSlot (code : Byte) : Option (BitVec 3) :=
  if code.toNat < 16 then some (code.extractLsb' 0 3) else none

/-- Row `r` of the glyph in slot `k`: the low 5 bits of CGRAM byte `8k + r` (R34, R37). -/
def glyphRow (l : Lcd) (k r : BitVec 3) : BitVec 5 :=
  (l.cgram[(k ++ r).toNat]'(by have := (k ++ r).isLt; omega)).extractLsb' 0 5

/-- The pattern the LCD shows for a character code: a CGRAM glyph, or what its character ROM holds for the font in use
(R77, R107). DESIGN CHOICE: a CGRAM code shows the eight rows of its slot whatever F is; the spec gives slots of 8 rows
alone and does not say what the 5×10 font of R73 makes of them. Unsafe with F = 1, notes/assumptions/37.md. -/
def shownPattern (l : Lcd) (code : Byte) : List (BitVec 5) :=
  match glyphSlot code with
  | some k => (List.range 8).map (fun r => glyphRow l k (BitVec.ofNat 3 r))
  | none => Config.romPattern l.font5x10 code

end Sys2Proof.Machine
end

