-- ==== Sys2Proof/Machine/Init.lean ====
section
/-! DEFINITION. The initialization FSM (42_init_fsm.md) and the command INIT. -/

namespace Sys2Proof.Machine

/-- FS_RESET_A (R75). -/
def fsResetA : Byte := 0x33
/-- FS_RESET_B (R75). -/
def fsResetB : Byte := 0x32
/-- FS_4BIT_2LINE (R75). -/
def fs4Bit2Line : Byte := 0x28
/-- RETURN_HOME as the block sends it (R75). -/
def returnHomeByte : Byte := 0x02

/-- The clear-and-home phase (R85), which is also the trace of CLRH (R93). -/
def clearHomeTrace (c : Config) : List Event :=
  byteWrite c .instruction clearDisplayByte ++ byteWrite c .instruction returnHomeByte

/-- The trace of INIT (R79). -/
def initTrace (c : Config) : List Event :=
  [.setMode .instruction, .wait c.tPowerOn]
  ++ byteWrite c .instruction fsResetA
  ++ byteWrite c .instruction fsResetB
  ++ byteWrite c .instruction fs4Bit2Line
  ++ byteWrite c .instruction c.initEntryMode
  ++ byteWrite c .instruction c.initDisplayControl
  ++ clearHomeTrace c
  ++ [.setMode .data]

/-- INIT (R79). It depends on no state but the configuration (R87). From it on the spec states what the LCD does, whatever
state the LCD was in (R83, R125). -/
def execInit (s : State) : Host.Outcome State Fault Refusal := accept (initTrace s.cfg) (s.setSync .inStep)

/-- The states of the initialization FSM (R80). -/
inductive InitPhase where
  | start | powerWait | fsA | fsB | fs4Bit | entry | display | clear | home | dataMode
  deriving DecidableEq, Repr

/-- The action of each state (R80). -/
def initAction (c : Config) : InitPhase → List Event
  | .start => [.setMode .instruction]
  | .powerWait => [.wait c.tPowerOn]
  | .fsA => byteWrite c .instruction fsResetA
  | .fsB => byteWrite c .instruction fsResetB
  | .fs4Bit => byteWrite c .instruction fs4Bit2Line
  | .entry => byteWrite c .instruction c.initEntryMode
  | .display => byteWrite c .instruction c.initDisplayControl
  | .clear => byteWrite c .instruction clearDisplayByte
  | .home => byteWrite c .instruction returnHomeByte
  | .dataMode => [.setMode .data]

/-- The one successor of each state; none where the FSM is done (R80). -/
def initNext : InitPhase → Option InitPhase
  | .start => some .powerWait
  | .powerWait => some .fsA
  | .fsA => some .fsB
  | .fsB => some .fs4Bit
  | .fs4Bit => some .entry
  | .entry => some .display
  | .display => some .clear
  | .clear => some .home
  | .home => some .dataMode
  | .dataMode => none

/-- The events the FSM emits in `fuel` of its states, from state `p` on. -/
def initFsmTrace (c : Config) : Nat → InitPhase → List Event
  | 0, _ => []
  | fuel + 1, p =>
    initAction c p ++ (match initNext p with
      | some q => initFsmTrace c fuel q
      | none => [])

end Sys2Proof.Machine
end

