-- ==== Sys2Proof/Machine/Text.lean ====
section
/-! DEFINITION. The text and cursor commands WSTR, CLRH and LINE2 (43_text_commands.md). -/

namespace Sys2Proof.Machine

/-- The trace of WSTR for the characters `bytes`: one data byte write per character, in order (R89). -/
def stringTrace (c : Config) (bytes : List Byte) : List Event := bytes.flatMap (byteWrite c .data)

/-- WSTR (R89): the argument check of R90, then the string as data bytes. -/
def execWstr (addr : BitVec 16) (s : State) : Host.Outcome State Fault Refusal :=
  acceptChecked (readString s addr.toNat) (stringTrace s.cfg) s

/-- CLRH (R93). -/
def execClrh (s : State) : Host.Outcome State Fault Refusal := accept (clearHomeTrace s.cfg) s

/-- LINE2 (R95). -/
def execLine2 (s : State) : Host.Outcome State Fault Refusal :=
  accept (byteWrite s.cfg .instruction s.cfg.line2Cmd) s

end Sys2Proof.Machine
end

