-- ==== Sys2Proof/Machine/Dispatch.lean ====
section
/-! DEFINITION. One arm per instruction. -/

namespace Sys2Proof.Machine

/-- The meaning of every instruction: the commands of the block (what issuing one does, 10_state.md R23) and the
instructions of the LCD (41_lcd_instruction_codes.md R74). -/
def exec (i : Instr) (s : State) : Host.Outcome State Fault Refusal :=
  match i with
  | .init => Sys2Proof.Machine.execInit s
  | .wins imm => Sys2Proof.Machine.execWins imm s
  | .wdat imm => Sys2Proof.Machine.execWdat imm s
  | .wstr addr => Sys2Proof.Machine.execWstr addr s
  | .clrh => Sys2Proof.Machine.execClrh s
  | .line2 => Sys2Proof.Machine.execLine2 s
  | .ldgly cnt addr => Sys2Proof.Machine.execLdgly cnt addr s
  | .clearDisplay => Sys2Proof.Machine.execClearDisplay s
  | .returnHome x => Sys2Proof.Machine.execReturnHome x s
  | .entryModeSet increment shift => Sys2Proof.Machine.execEntryModeSet increment shift s
  | .displayControl display cursor blink => Sys2Proof.Machine.execDisplayControl display cursor blink s
  | .cursorDisplayShift display right x => Sys2Proof.Machine.execCursorDisplayShift display right x s
  | .functionSet eightBit twoLines font5x10 x => Sys2Proof.Machine.execFunctionSet eightBit twoLines font5x10 x s
  | .setCgramAddr a => Sys2Proof.Machine.execSetCgramAddr a s
  | .setDdramAddr a => Sys2Proof.Machine.execSetDdramAddr a s

end Sys2Proof.Machine
end

