-- ==== Sys2Proof/Machine/Sequencer.lean ====
section
/-! DEFINITION. The sequencer: performing bus events (40_bus_serializer.md R58 to R61), what the LCD takes in at a strobe
(R60, R78), issuing a command word (60_exceptions.md R112), the host's moves, and one step of the whole (10_state.md
R23). -/

namespace Sys2Proof.Machine

/-- The LCD in the state an outcome leaves; `l` if the outcome is no next state (no LCD instruction has such an outcome). -/
def lcdOf (l : Lcd) : Host.Outcome State Fault Refusal → Lcd
  | .next t => t.lcd
  | .fault _ => l
  | .refused _ => l

/-- The state in which the LCD executes the instruction byte `{h, l}` it has just taken in: its interface is past the
byte and its instruction register holds it. -/
def withInstructionByte (s : State) (iface : Interface) (h l : Nibble) : State :=
  s.setLcd { s.lcd with iface := iface, ir := joinNibbles h l }

/-- The LCD after it has taken in the whole byte `{h, l}` with the RS level of `s` (R60, R72, R74). An instruction byte
runs as the instruction the LCD decodes; a byte of no class leaves the LCD in any state (R68, 93 U12). -/
def lcdAfterByte (s : State) (iface : Interface) (h l : Nibble) : Lcd :=
  match s.mode with
  | .data => writeData s.fresh (joinNibbles h l) { s.lcd with iface := iface, dr := joinNibbles h l }
  | .instruction =>
    match decodeLcdNibbles h l with
    | some i => lcdOf s.lcd (exec i (withInstructionByte s iface h l))
    | none => Config.anyLcd s.fresh

/-- The LCD after it has read the byte `{h, l}` while WINS has left it in 8-bit mode: it stays in 8-bit mode and its register
holds the byte (R130(a)); everything else it does with the byte is open until the next INIT (93 U12). DEDUCED, the reading of
the two together; notes/assumptions/36.md. -/
def heldInEightBit (s : State) (h l : Nibble) : Lcd :=
  match s.mode with
  | .instruction => { Config.anyLcd s.fresh with iface := .eightBit, ir := joinNibbles h l }
  | .data => { Config.anyLcd s.fresh with iface := .eightBit, dr := joinNibbles h l }

/-- The LCD after the nibble on D[3:0], if it reads it as `takeNibble` says: past it, or, if it completes a byte, as
`byteEffect` says. -/
def afterNibble (byteEffect : Interface → Nibble → Nibble → Lcd) (s : State) : Lcd :=
  match takeNibble s.dout (Config.undrivenNibble s.fresh) s.lcd.iface with
  | (iface, none) => { s.lcd with iface := iface }
  | (iface, some (h, l)) => byteEffect iface h l

/-- The LCD after a strobe: it takes in one nibble, tagged with the RS level (R60). It is in any state after a strobe that
finds it busy (93 U23) and after one before the first INIT (R126, 93 U20). DESIGN CHOICE: the LCD is present and works; after
INIT a missing or broken one could be in any state (R114, 93 U11). Unsafe, notes/assumptions/38.md. -/
def lcdAfterStrobe (s : State) : Lcd :=
  if s.lcd.busy then Config.anyLcd s.fresh
  else
    match s.sync with
    | .unspecified => Config.anyLcd s.fresh
    | .eightBit => afterNibble (fun _ => heldInEightBit s) s
    | .inStep => afterNibble (lcdAfterByte s) s

/-- The falling edge of E: the LCD latches RS and D[3:0] (R60). Each strobe has a free value of its own. -/
def fallingEdge (s : State) : State := (s.draw.setLcd (lcdAfterStrobe s.draw)).setE 0

/-- Perform one bus event (R58 to R61) and record it. `Strobe` takes E from 0 to 1 and back within the event (R20, R60);
`Wait` ends what the LCD was executing (R61, R127). -/
def perform (ev : Event) (s : State) : State :=
  match ev with
  | .setMode m => (s.setMode m).record ev
  | .setData n => (s.setDout n).record ev
  | .strobe => (fallingEdge (s.setE 1)).record ev
  | .wait _ => (s.setLcd { s.lcd with busy := false }).record ev

/-- The block gets command word `w` (R112): an illegal word is rejected with ILLEGAL_COMMAND (R110), a command runs. -/
def issueWord (w : CommandWord) (s : State) : Host.Outcome State Fault Refusal :=
  match decodeCommand w with
  | .command i => exec i s
  | .illegal _ => reject .illegalCommand s

/-- The host makes one move (R24, R31, R124). -/
def hostMove (m : HostMove) (s : State) : Host.Outcome State Fault Refusal :=
  match m with
  | .issue w => issueWord w s
  | .store a b => storeOperand a b s
  | .powerCycle => .next (powerOnReset s)

/-- One step of the sequencer (R23): perform the head event; end the command when none is left; when Idle, take the
host's next move, or wait for one. -/
def advance (s : State) : Host.Outcome State Fault Refusal :=
  match s.seq with
  | .busy (ev :: rest) => .next (perform ev (s.setSeq (.busy rest)))
  | .busy [] => .next (complete s)
  | .idle =>
    match s.script with
    | m :: rest => hostMove m (s.setScript rest)
    | [] => .next s

/-- The events still to perform. -/
def Seq.rest : Seq → List Event
  | .idle => []
  | .busy rest => rest

/-- Put command word `w` where the next step takes its command: SEQ is Idle and the host's next move issues `w`. -/
def placeCommand (w : CommandWord) (s : State) : State :=
  (s.setSeq .idle).setScript (.issue w :: s.script)

/-- Put instruction byte `b` where the next step's strobe completes it: the LCD, in 4-bit mode and not busy, holds the
high nibble, and INIT has been issued; RS is Instruction; D[3:0] is the low nibble; the next event is the strobe. -/
def placeLcdByte (b : Byte) (s : State) : State :=
  ((((s.setMode .instruction).setDout (lo b)).setSeq (.busy (.strobe :: s.seq.rest))).setLcd
    { s.lcd with iface := .fourBit (some (hi b)), busy := false }).setSync .inStep

/-- Put the instruction of `nbits` bits where the next step fetches it. -/
def placeFetch (s : State) (nbits w : Nat) : State :=
  if nbits = 8 then placeLcdByte (BitVec.ofNat 8 w) s else placeCommand (BitVec.ofNat 32 w) s

end Sys2Proof.Machine
end

