-- ==== Sys2Proof/Machine/Step.lean ====
section
/-! DEFINITION. One step of the machine, and where it fetches its next instruction. -/

namespace Sys2Proof.Machine

/-- One step (10_state.md R23): at most one bus event (00_scope.md R5). An illegal configuration is refused; it does not
run (00_scope.md R8). -/
def step (s : State) : Host.Outcome State Fault Refusal :=
  if s.cfg.legal then advance s else .refused .illegalConfig

/-- `s` with the instruction of `nbits` bits stored where `step` fetches its next instruction: the host's next move for a
command word, the LCD's next completed byte for an LCD instruction byte. -/
def State.withFetchWord (s : State) (nbits w : Nat) : State := placeFetch s nbits w

end Sys2Proof.Machine
end

