-- ==== Sys2Proof/Machine/Assembler.lean ====
section
/-! DEFINITION. The assembler of command streams: the text form of 30_encoding.md R56 and the pseudo-instructions of R57.
It is a tool beside the block; no step of the machine calls it. -/

namespace Sys2Proof.Machine

/-- The byte of a constant name of R72. CLEAR_DISPLAY is 0x01 and RETURN_HOME is 0x02 (R75). DESIGN CHOICE: a class with
fields stands for its pattern with every field and don't-care bit 0 (its "match" in spec/opcode_table.json), since R57
gives no field values; notes/assumptions/30.md. -/
def nameByte : LcdName → Byte
  | .clearDisplay => 0x01
  | .returnHome => 0x02
  | .entryModeSet => 0x04
  | .displayControl => 0x08
  | .cursorDisplayShift => 0x10
  | .functionSet => 0x20
  | .setCgramAddr => 0x40
  | .setDdramAddr => 0x80

/-- The one command each line stands for (R56, R57), for operands in range. -/
def lineInstr : AsmLine → Instr
  | .init => .init
  | .wins b => .wins (BitVec.ofNat 8 b)
  | .wdat b => .wdat (BitVec.ofNat 8 b)
  | .wstr a => .wstr (BitVec.ofNat 16 a)
  | .clrh => .clrh
  | .line2 => .line2
  | .ldgly n a => .ldgly (BitVec.ofNat 4 n) (BitVec.ofNat 16 a)
  | .putc b => .wdat (BitVec.ofNat 8 b)
  | .clear => .wins 0x01
  | .home => .wins 0x02
  | .retdd => .wins 0x80
  | .setdd a => .wins (0x80 ||| BitVec.ofNat 8 a)
  | .setcg a => .wins (0x40 ||| BitVec.ofNat 8 a)
  | .winsName n => .wins (nameByte n)

/-- The command word of a line: the fields of R46, zeros in every other field. A value outside its field's range is
refused; it is not truncated (R56). -/
def assemble (l : AsmLine) : Option CommandWord :=
  if l.wf then
    match encode (lineInstr l) with
    | .word w => some w
    | .byte _ => none
  else none

/-! ### The text form (R56) -/

/-- The pieces of a line. -/
inductive Token where
  /-- A run of letters, digits and underscores. -/
  | word (cs : List Char)
  /-- A character in single quotes. -/
  | quoted (c : Char)
  | comma
  /-- Any other character: the line is refused. -/
  | stray (c : Char)
  deriving DecidableEq, Repr

/-- A letter, digit or underscore. -/
def wordChar (c : Char) : Bool := c.isAlphanum || c == '_'

/-- End the word being read, if there is one. -/
def flushWord (acc : List Char) (rest : List Token) : List Token :=
  if acc.isEmpty then rest else .word acc.reverse :: rest

/-- Cut a line into its pieces. A `;` starts a comment to the end of the line (R56). DESIGN CHOICE: between single quotes a
`;` is the quoted character and starts no comment, which R56 does not settle; notes/assumptions/40.md. DESIGN CHOICE: a
space or a tab parts two pieces and is needed only between two words, so that none need stand before a quoted character;
notes/assumptions/41.md. -/
def tokens : List Char → List Char → List Token
  | acc, [] => flushWord acc []
  | acc, '\'' :: c :: '\'' :: rest => flushWord acc (.quoted c :: tokens [] rest)
  | acc, c :: rest =>
    if c = ';' then flushWord acc []
    else if wordChar c then tokens (c :: acc) rest
    else if c = ',' then flushWord acc (.comma :: tokens [] rest)
    else if c = ' ' ∨ c = '\t' then flushWord acc (tokens [] rest)
    else flushWord acc (.stray c :: tokens [] rest)

/-- The value of a digit in base 16, or nothing. DESIGN CHOICE: `A` to `F` in either case; notes/assumptions/41.md. -/
def digitValue (c : Char) : Option Nat :=
  let n := c.toNat
  if 48 ≤ n ∧ n ≤ 57 then some (n - 48)
  else if 65 ≤ n ∧ n ≤ 70 then some (n - 55)
  else if 97 ≤ n ∧ n ≤ 102 then some (n - 87)
  else none

/-- The number `cs` writes in base `b`, after the digits already read as `acc`. -/
def digits (b : Nat) : Nat → List Char → Option Nat
  | acc, [] => some acc
  | acc, c :: rest =>
    match digitValue c with
    | some d => if d < b then digits b (acc * b + d) rest else none
    | none => none

/-- A number: decimal, hexadecimal after `0x`, or a quoted character for its ASCII code (R56). DESIGN CHOICE: a quoted
character outside ASCII has no ASCII code and is refused, which R56 does not say; notes/assumptions/34.md. DESIGN CHOICE: the prefix is a small `0x` alone, and leading zeros are
allowed; notes/assumptions/41.md. -/
def number : Token → Option Nat
  | .quoted c => if c.toNat < 128 then some c.toNat else none
  | .word ('0' :: 'x' :: c :: rest) => digits 16 0 (c :: rest)
  | .word (c :: rest) => digits 10 0 (c :: rest)
  | _ => none

/-- The constant names of R72. DESIGN CHOICE: in capitals, as R72 writes them; notes/assumptions/41.md. -/
def lcdName (cs : List Char) : Option LcdName :=
  if cs = "CLEAR_DISPLAY".toList then some .clearDisplay
  else if cs = "RETURN_HOME".toList then some .returnHome
  else if cs = "ENTRY_MODE_SET".toList then some .entryModeSet
  else if cs = "DISPLAY_CONTROL".toList then some .displayControl
  else if cs = "CURSOR_DISPLAY_SHIFT".toList then some .cursorDisplayShift
  else if cs = "FUNCTION_SET".toList then some .functionSet
  else if cs = "SET_CGRAM_ADDR".toList then some .setCgramAddr
  else if cs = "SET_DDRAM_ADDR".toList then some .setDdramAddr
  else none

/-- A line with one number after the mnemonic. -/
def oneNumber (f : Nat → AsmLine) : List Token → Option AsmLine
  | [t] => (number t).map f
  | _ => none

/-- WINS takes a byte or a constant name (R56, R57). -/
def winsOperand : List Token → Option AsmLine
  | [.word cs] =>
    match lcdName cs with
    | some n => some (.winsName n)
    | none => (number (.word cs)).map .wins
  | ts => oneNumber .wins ts

/-- LDGLY takes a count, a comma and an address (R56). -/
def ldglyOperands : List Token → Option AsmLine
  | [n, .comma, a] =>
    match number n, number a with
    | some n, some a => some (.ldgly n a)
    | _, _ => none
  | _ => none

/-- A line with nothing after the mnemonic. -/
def noOperand (l : AsmLine) : List Token → Option AsmLine
  | [] => some l
  | _ => none

/-- A line by its mnemonic (R56, R57). DESIGN CHOICE: in capitals, as the rules write it; notes/assumptions/41.md. -/
def lineOf (mnemonic : List Char) (ts : List Token) : Option AsmLine :=
  if mnemonic = "INIT".toList then noOperand .init ts
  else if mnemonic = "WINS".toList then winsOperand ts
  else if mnemonic = "WDAT".toList then oneNumber .wdat ts
  else if mnemonic = "WSTR".toList then oneNumber .wstr ts
  else if mnemonic = "CLRH".toList then noOperand .clrh ts
  else if mnemonic = "LINE2".toList then noOperand .line2 ts
  else if mnemonic = "LDGLY".toList then ldglyOperands ts
  else if mnemonic = "PUTC".toList then oneNumber .putc ts
  else if mnemonic = "CLEAR".toList then noOperand .clear ts
  else if mnemonic = "HOME".toList then noOperand .home ts
  else if mnemonic = "RETDD".toList then noOperand .retdd ts
  else if mnemonic = "SETDD".toList then oneNumber .setdd ts
  else if mnemonic = "SETCG".toList then oneNumber .setcg ts
  else none

/-- One line of text: `some none` if it holds no command, `some (some l)` if it holds `l`, nothing if it is refused. DESIGN
CHOICE: a line that is empty or a comment only is accepted as holding no command, which R56 does not say;
notes/assumptions/39.md. -/
def parseLine (text : List Char) : Option (Option AsmLine) :=
  match tokens [] text with
  | [] => some none
  | .word m :: ts => (lineOf m ts).map some
  | _ => none

end Sys2Proof.Machine
end

