-- ==== Sys2Proof/Safety.lean ====
section
/-! DEFINITION. The words claims are stated in: where the next command stands, counts over a trace, the machine's
invariants, and when the LCD is in step with the block. -/

namespace Sys2Proof.Machine

/-- `k` steps of the machine. -/
abbrev runSteps (k : Nat) (s : State) : Host.Outcome State Fault Refusal := core.run k s

/-- The block is Idle under a legal configuration, and the host's next move is `m`, then `ms`. -/
abbrev NextMove (s : State) (m : HostMove) (ms : List HostMove) : Prop :=
  s.cfg.legal = true ∧ s.seq = .idle ∧ s.script = m :: ms

/-- The block is Busy under a legal configuration with `rest` still to perform. -/
abbrev Running (s : State) (rest : List Event) : Prop :=
  s.cfg.legal = true ∧ s.seq = .busy rest

/-- The commands of the block; the other instructions are the LCD's. -/
def isCommand : Instr → Bool
  | .init | .wins _ | .wdat _ | .wstr _ | .clrh | .line2 | .ldgly _ _ => true
  | .clearDisplay | .returnHome _ | .entryModeSet _ _ | .displayControl _ _ _ | .cursorDisplayShift _ _ _
  | .functionSet _ _ _ _ | .setCgramAddr _ | .setDdramAddr _ => false

/-- From `s` on, the host's next command, whose following moves are `ms`, ends: the block is Idle again, the host has
received one status `st`, MODE is `m` and DOUT is `d`. -/
def CommandEnds (s : State) (ms : List HostMove) (st : Status) (m : Mode) (d : Nibble) : Prop :=
  ∃ k t, runSteps k s = .next t ∧ t.seq = .idle ∧ t.script = ms ∧ t.statuses = s.statuses ++ [st] ∧
    t.mode = m ∧ t.dout = d

/-! ### Counts over a trace -/

/-- An event is a strobe. -/
def isStrobe : Event → Bool
  | .strobe => true
  | _ => false

/-- An event is a wait. -/
def isWait : Event → Bool
  | .wait _ => true
  | _ => false

/-- An event sets the mode. -/
def isSetMode : Event → Bool
  | .setMode _ => true
  | _ => false

/-- An event sets the data lines. -/
def isSetData : Event → Bool
  | .setData _ => true
  | _ => false

/-- The milliseconds a trace requests in all (R134). -/
def totalWait : List Event → Nat
  | [] => 0
  | .wait n :: rest => n + totalWait rest
  | _ :: rest => totalWait rest

/-- A trace has `events` events, `strobes` of them strobes and `waits` of them waits, which request `ms` milliseconds in
all. -/
abbrev HasCounts (tr : List Event) (events strobes waits ms : Nat) : Prop :=
  tr.length = events ∧ tr.countP isStrobe = strobes ∧ tr.countP isWait = waits ∧ totalWait tr = ms

/-- The nibbles a trace brings the LCD, each with the RS level at its strobe, from MODE `m` and DOUT `d` on (R60, R70). -/
def latched : Mode → Nibble → List Event → List (Mode × Nibble)
  | _, _, [] => []
  | _, d, .setMode m' :: rest => latched m' d rest
  | m, _, .setData n :: rest => latched m n rest
  | m, d, .strobe :: rest => (m, d) :: latched m d rest
  | m, d, .wait _ :: rest => latched m d rest

/-! ### Invariants -/

/-- Every wait still to perform is at least 1 ms (R61). -/
def waitsPositive (rest : List Event) : Bool :=
  rest.all (fun ev => match ev with
    | .wait n => decide (1 ≤ n)
    | _ => true)

/-- What every step keeps: a legal configuration (R8), E low (R20), the operand memory in canonical form and inside its
bound (R31), and no wait of 0 ms ahead (R61). -/
abbrev Inv (s : State) : Prop :=
  s.cfg.legal = true ∧ s.e = 0 ∧ Memory.wf s.opmem = true ∧ Memory.within s.cfg.opmemSize s.opmem = true ∧
    waitsPositive s.seq.rest = true

/-- From an LCD that is busy or not, the events never strobe it while it may be busy, and leave it not busy: after a
strobe it counts as busy until the next wait (R127). -/
def paced : Bool → List Event → Bool
  | b, [] => !b
  | b, .strobe :: rest => !b && paced true rest
  | _, .wait _ :: rest => paced false rest
  | b, .setMode _ :: rest => paced b rest
  | b, .setData _ :: rest => paced b rest

/-- The LCD is not busy when the block is Idle, and the events ahead are paced for it when the block is Busy. -/
abbrev LcdPaced (s : State) : Prop := paced s.lcd.busy s.seq.rest = true

/-- The host does not cycle the power. -/
def noPowerCycle (ms : List HostMove) : Bool :=
  ms.all (fun m => match m with
    | .powerCycle => false
    | _ => true)

/-- A move issues a command. -/
def isIssue : HostMove → Bool
  | .issue _ => true
  | _ => false

/-- Commands the host has still to issue, plus the one in progress, plus the statuses it has received (R24). -/
def commandCount (s : State) : Nat :=
  s.script.countP isIssue + (match s.seq with | .idle => 0 | .busy _ => 1) + s.statuses.length

/-! ### The LCD in step with the block -/

/-- How far the spec states what the LCD does once command `i` is accepted: INIT brings the LCD back, WINS may lose it, and
no other command matters (R125, R126, R130). -/
def syncAfter : Instr → LcdSync → LcdSync
  | .init, _ => .inStep
  | .wins code, y => syncAfterWins code y
  | _, y => y

/-- INIT has been issued since power-up and nothing since that breaks the protocol, the premise R126 and R133 ask of a claim
about the display; and the LCD is in 4-bit mode, expects a high nibble and is not busy. -/
abbrev LcdReady (s : State) : Prop := s.sync = .inStep ∧ s.lcd.iface = .fourBit none ∧ s.lcd.busy = false

/-- An LCD instruction byte that leaves a 4-bit LCD in step: it belongs to a class and does not switch the interface to
8 bits (R130, R72). -/
def keepsStep (b : Byte) : Bool :=
  match decodeLcdByte b with
  | some (.functionSet eightBit _ _ _) => !eightBit
  | some _ => true
  | none => false

/-- Two states that may differ only in the LCD and in the free values to come. -/
abbrev SameBlock (s t : State) : Prop := t = { s with lcd := t.lcd, fresh := t.fresh }

/-- Two outcomes that a host which cannot see the LCD cannot tell apart. -/
def SameOutcome : Host.Outcome State Fault Refusal → Host.Outcome State Fault Refusal → Prop
  | .next s, .next t => SameBlock s t
  | .fault f, .fault g => f = g
  | .refused r, .refused q => r = q
  | _, _ => False

end Sys2Proof.Machine
end

