-- ==== Sys2Proof/Certificates/Slice0/Obligations.lean ====
section
/-! DEFINITION. The statements for the provers. Each docstring names the rules of spec/ it formalises. -/

open Sys2Proof Sys2Proof.Machine

/-! ### Encoding -/

/-- R46 to R50, R72: for every instruction, the decoder reads back from its encoding the instruction itself. -/
def Obligations.EncodeThenDecode : Prop :=
  ∀ i : Instr, decodeTableWord (encode i).nbits (encode i).toNat = some i

/-- R48 to R50, R72: what decodes to an instruction is that instruction's encoding, so no bit of a word is dropped. -/
def Obligations.DecodeThenEncode : Prop :=
  (∀ (w : CommandWord) (i : Instr), decodeCommand w = .command i → encode i = .word w) ∧
  (∀ (b : Byte) (i : Instr), decodeLcdByte b = some i → encode i = .byte b)

/-- R49: the match and mask of each command row say exactly which words spell the command; a word that matches no row
is illegal. -/
def Obligations.CommandRowsMatchMask : Prop :=
  ∀ w : CommandWord,
    (decodeCommand w = .command .init ↔ w &&& 0xFFFFFFFF = 0x10000000) ∧
    ((∃ imm, decodeCommand w = .command (.wins imm)) ↔ w &&& 0xFFFFFF00 = 0x20000000) ∧
    ((∃ imm, decodeCommand w = .command (.wdat imm)) ↔ w &&& 0xFFFFFF00 = 0x30000000) ∧
    ((∃ addr, decodeCommand w = .command (.wstr addr)) ↔ w &&& 0xFF0000FF = 0x40000000) ∧
    (decodeCommand w = .command .clrh ↔ w &&& 0xFFFFFFFF = 0x50000000) ∧
    (decodeCommand w = .command .line2 ↔ w &&& 0xFFFFFFFF = 0x60000000) ∧
    ((∃ cnt addr, decodeCommand w = .command (.ldgly cnt addr)) ↔ w &&& 0xF00000FF = 0x70000000) ∧
    ((∃ why, decodeCommand w = .illegal why) ↔
      w &&& 0xFFFFFFFF ≠ 0x10000000 ∧ w &&& 0xFFFFFF00 ≠ 0x20000000 ∧ w &&& 0xFFFFFF00 ≠ 0x30000000 ∧
      w &&& 0xFF0000FF ≠ 0x40000000 ∧ w &&& 0xFFFFFFFF ≠ 0x50000000 ∧ w &&& 0xFFFFFFFF ≠ 0x60000000 ∧
      w &&& 0xF00000FF ≠ 0x70000000)

/-- R72: the value range of each LCD instruction class; the byte 0x00 belongs to no class. -/
def Obligations.LcdClassesByValueRange : Prop :=
  ∀ b : Byte,
    (decodeLcdByte b = none ↔ b.toNat = 0) ∧
    (decodeLcdByte b = some .clearDisplay ↔ b.toNat = 0x01) ∧
    ((∃ x, decodeLcdByte b = some (.returnHome x)) ↔ 0x02 ≤ b.toNat ∧ b.toNat ≤ 0x03) ∧
    ((∃ i s, decodeLcdByte b = some (.entryModeSet i s)) ↔ 0x04 ≤ b.toNat ∧ b.toNat ≤ 0x07) ∧
    ((∃ d c k, decodeLcdByte b = some (.displayControl d c k)) ↔ 0x08 ≤ b.toNat ∧ b.toNat ≤ 0x0F) ∧
    ((∃ d r x, decodeLcdByte b = some (.cursorDisplayShift d r x)) ↔ 0x10 ≤ b.toNat ∧ b.toNat ≤ 0x1F) ∧
    ((∃ e n f x, decodeLcdByte b = some (.functionSet e n f x)) ↔ 0x20 ≤ b.toNat ∧ b.toNat ≤ 0x3F) ∧
    ((∃ a, decodeLcdByte b = some (.setCgramAddr a)) ↔ 0x40 ≤ b.toNat ∧ b.toNat ≤ 0x7F) ∧
    ((∃ a, decodeLcdByte b = some (.setDdramAddr a)) ↔ 0x80 ≤ b.toNat ∧ b.toNat ≤ 0xFF)

/-- Words the spec writes out (R68, R69, R79, R89, R93, R95, R97, R75) decode to the instructions they stand for. -/
def Obligations.SpecWordsDecode : Prop :=
  decodeTableWord 32 0x10000000 = some .init ∧
  decodeTableWord 32 0x20000028 = some (.wins 0x28) ∧
  decodeTableWord 32 0x30000048 = some (.wdat 0x48) ∧
  decodeTableWord 32 0x40010000 = some (.wstr 0x0100) ∧
  decodeTableWord 32 0x50000000 = some .clrh ∧
  decodeTableWord 32 0x60000000 = some .line2 ∧
  decodeTableWord 32 0x71020000 = some (.ldgly 1 0x0200) ∧
  decodeTableWord 8 0x28 = some (.functionSet false true false 0) ∧
  decodeTableWord 8 0xC0 = some (.setDdramAddr 0x40)

/-- R11: the two nibbles of a byte, and the byte they make. -/
def Obligations.NibblesOfAByte : Prop :=
  ∀ b : Byte, b = hi b ++ lo b ∧ b.toNat = (hi b).toNat * 16 + (lo b).toNat ∧
    (∀ j : Fin 4, (hi b).getLsbD j = b.getLsbD (j + 4)) ∧ (∀ j : Fin 4, (lo b).getLsbD j = b.getLsbD j)

/-- R51: a word whose OP is 0x0 or 0x8..0xF is rejected with ILLEGAL_COMMAND and emits nothing. -/
def Obligations.ReservedOpcodeRejected : Prop :=
  ∀ (s : State) (w : CommandWord) (ms : List HostMove), NextMove s (.issue w) ms →
    opField w = 0x0 ∨ 8 ≤ (opField w).toNat →
    step s = .next { s with script := ms, statuses := s.statuses ++ [.illegalCommand] }

/-- R52: a word with a legal OP and a non-zero must-be-zero field (R48) is rejected with ILLEGAL_COMMAND. -/
def Obligations.NonzeroUnusedFieldRejected : Prop :=
  ∀ (s : State) (w : CommandWord) (ms : List HostMove), NextMove s (.issue w) ms →
    ((opField w = 0x1 ∨ opField w = 0x5 ∨ opField w = 0x6) ∧
        (cntField w ≠ 0 ∨ addrField w ≠ 0 ∨ immField w ≠ 0)) ∨
      ((opField w = 0x2 ∨ opField w = 0x3) ∧ (cntField w ≠ 0 ∨ addrField w ≠ 0)) ∨
      (opField w = 0x4 ∧ (cntField w ≠ 0 ∨ immField w ≠ 0)) ∨
      (opField w = 0x7 ∧ immField w ≠ 0) →
    step s = .next { s with script := ms, statuses := s.statuses ++ [.illegalCommand] }

/-- R56, R57, R49: the word of every assembler line, with the fields of R46 and zeros elsewhere, and the refusal of every
operand outside its range. The byte of a class name with fields (all but CLEAR_DISPLAY and RETURN_HOME) is the model's
choice (notes/assumptions/30.md). -/
def Obligations.AssemblerEncodesOrRefuses : Prop :=
  (assemble .init = some 0x10000000 ∧ assemble .clrh = some 0x50000000 ∧ assemble .line2 = some 0x60000000) ∧
  (∀ b : Nat, assemble (.wins b) = if b ≤ 255 then some (BitVec.ofNat 32 (0x20000000 + b)) else none) ∧
  (∀ b : Nat, assemble (.wdat b) = if b ≤ 255 then some (BitVec.ofNat 32 (0x30000000 + b)) else none) ∧
  (∀ a : Nat, assemble (.wstr a) = if a ≤ 65535 then some (BitVec.ofNat 32 (0x40000000 + 256 * a)) else none) ∧
  (∀ n a : Nat, assemble (.ldgly n a) =
    if n ≤ 15 ∧ a ≤ 65535 then some (BitVec.ofNat 32 (0x70000000 + 0x1000000 * n + 256 * a)) else none) ∧
  (∀ b : Nat, assemble (.putc b) = if b ≤ 255 then some (BitVec.ofNat 32 (0x30000000 + b)) else none) ∧
  (assemble .clear = some 0x20000001 ∧ assemble .home = some 0x20000002 ∧ assemble .retdd = some 0x20000080) ∧
  (∀ a : Nat, assemble (.setdd a) =
    if a ≤ 0x7F then some (BitVec.ofNat 32 (0x20000000 + (0x80 ||| a))) else none) ∧
  (∀ a : Nat, assemble (.setcg a) =
    if a ≤ 0x3F then some (BitVec.ofNat 32 (0x20000000 + (0x40 ||| a))) else none) ∧
  (assemble (.winsName .clearDisplay) = some 0x20000001 ∧ assemble (.winsName .returnHome) = some 0x20000002 ∧
    assemble (.winsName .entryModeSet) = some 0x20000004 ∧ assemble (.winsName .displayControl) = some 0x20000008 ∧
    assemble (.winsName .cursorDisplayShift) = some 0x20000010 ∧ assemble (.winsName .functionSet) = some 0x20000020 ∧
    assemble (.winsName .setCgramAddr) = some 0x20000040 ∧ assemble (.winsName .setDdramAddr) = some 0x20000080)

/-! ### Configuration, reset, the host's moves -/

/-- R8: the legality conditions, and that an illegal configuration is refused and not run. -/
def Obligations.IllegalConfigurationRefused : Prop :=
  ∀ s : State,
    (s.cfg.legal = true ↔
      1 ≤ s.cfg.tSettle ∧ s.cfg.tSettle < s.cfg.tClear ∧ 1 ≤ s.cfg.tPowerOn ∧
      1 ≤ s.cfg.opmemSize ∧ s.cfg.opmemSize ≤ 65536 ∧
      0x80 ≤ s.cfg.line2Cmd.toNat ∧ s.cfg.line2Cmd.toNat ≤ 0xFF ∧
      0x04 ≤ s.cfg.initEntryMode.toNat ∧ s.cfg.initEntryMode.toNat ≤ 0x07 ∧
      0x08 ≤ s.cfg.initDisplayControl.toNat ∧ s.cfg.initDisplayControl.toNat ≤ 0x0F) ∧
    (s.cfg.legal = false → step s = .refused .illegalConfig)

/-- R29: MODE, E, DOUT and SEQ after power-on reset. -/
def Obligations.ResetState : Prop :=
  State.reset.mode = .instruction ∧ State.reset.rs = 0 ∧ State.reset.e = 0 ∧ State.reset.dout = 0x0 ∧
    State.reset.seq = .idle

/-- R29, R124, R125: a power cycle gives the block its reset values, emits no bus event and no wait, returns no status, and
leaves the LCD in a state of which nothing is known, until INIT. That the host cycles the power between commands is the
model's choice (notes/assumptions/25.md), and so is the form of what is known of the LCD (10.md, 35.md). -/
def Obligations.PowerCycleResetsTheBlock : Prop :=
  ∀ (s : State) (ms : List HostMove), NextMove s .powerCycle ms →
    ∃ t, step s = .next t ∧ t.mode = .instruction ∧ t.e = 0 ∧ t.dout = 0x0 ∧ t.seq = .idle ∧
      t.events = s.events ∧ t.statuses = s.statuses ∧ t.opmem = s.opmem ∧ t.cfg = s.cfg ∧ t.script = ms ∧
      t.lcd = Config.anyLcd (s.fresh + 1) ∧ t.sync = .unspecified

/-- R31, R45: the host's store between commands is what a later read sees, and no other byte changes; an address at or
above OPMEM_SIZE holds nothing, and storing there is a fault (the model's choice, notes/assumptions/5.md). -/
def Obligations.HostStoreThenRead : Prop :=
  ∀ (s : State) (a : Nat) (b : Byte) (ms : List HostMove), NextMove s (.store a b) ms → Memory.wf s.opmem = true →
    (a < s.cfg.opmemSize →
      ∃ t, step s = .next t ∧ t.memRead a = some b ∧ (∀ x, x ≠ a → t.memRead x = s.memRead x) ∧
        t = { s with script := ms, opmem := t.opmem }) ∧
    (s.cfg.opmemSize ≤ a → step s = .fault (.operandAddressAbsent a) ∧ s.memRead a = none)

/-- R31: only the host's store changes the operand memory, and R7: nothing changes the configuration. -/
def Obligations.BlockNeverWritesOperandMemory : Prop :=
  ∀ s t : State, step s = .next t →
    t.cfg = s.cfg ∧
    ∀ a, readCell t.opmem a ≠ readCell s.opmem a →
      s.seq = .idle ∧ ∃ b ms, s.script = .store a b :: ms ∧ a < s.cfg.opmemSize

/-- R124: after reset the block waits for its first command. That an Idle block with no move of the host left waits in
every state, and that the wait is a step which leaves the state as it is, is the model's reading
(notes/assumptions/6.md). -/
def Obligations.IdleBlockWaits : Prop :=
  ∀ s : State, s.cfg.legal = true → s.seq = .idle → s.script = [] → step s = .next s

/-! ### Bus events -/

/-- R58: `SetMode(m)` writes MODE, drives RS (0 for Instruction, 1 for Data) and changes nothing else. -/
def Obligations.SetModeEvent : Prop :=
  ∀ (s : State) (m : Mode) (rest : List Event), Running s (.setMode m :: rest) →
    ∃ t, step s = .next t ∧ t = { s with mode := m, seq := .busy rest, events := s.events ++ [.setMode m] } ∧
      (m = .instruction → t.rs = 0) ∧ (m = .data → t.rs = 1)

/-- R59: `SetData(n)` writes DOUT, line D`i` carries `n[i]`, and nothing else changes. -/
def Obligations.SetDataEvent : Prop :=
  ∀ (s : State) (n : Nibble) (rest : List Event), Running s (.setData n :: rest) →
    ∃ t, step s = .next t ∧ t = { s with dout := n, seq := .busy rest, events := s.events ++ [.setData n] } ∧
      ∀ i : Fin 4, t.dataLine i = n.getLsbD i

/-- R60: `Strobe` leaves E at 0, holds RS and D[3:0], and brings a 4-bit LCD that INIT has brought in step (R126) and that
is not busy one nibble: the high one if it expects one, else the low one, which completes the byte. The model's own here:
the byte has the RS level of the second strobe (notes/assumptions/21.md), a data byte then stands in the data register
(22.md), and what stands for R126 (35.md). -/
def Obligations.StrobeEvent : Prop :=
  ∀ (s : State) (rest : List Event), Running s (.strobe :: rest) →
    ∃ t, step s = .next t ∧ t.e = 0 ∧
      t = { s with e := 0, seq := .busy rest, events := s.events ++ [.strobe], lcd := t.lcd, fresh := t.fresh } ∧
      (s.sync = .inStep → s.lcd.busy = false → s.lcd.iface = .fourBit none →
        t.lcd = { s.lcd with iface := .fourBit (some s.dout) }) ∧
      (∀ h, s.sync = .inStep → s.lcd.busy = false → s.lcd.iface = .fourBit (some h) → s.mode = .data →
        t.lcd.dr = h ++ s.dout ∧ t.lcd.iface = .fourBit none)

/-- R61: `Wait(n)` is one step that records the event with its `n`; the pins keep their levels. That it ends what the LCD
was executing, whatever `n`, is the model's rendering of R127 (notes/assumptions/12.md). -/
def Obligations.WaitEvent : Prop :=
  ∀ (s : State) (n : Nat) (rest : List Event), Running s (.wait n :: rest) →
    step s = .next
      { s with seq := .busy rest, events := s.events ++ [.wait n], lcd := { s.lcd with busy := false } }

/-- R62, R63: a byte write is these 8 events, 2 strobes and 2 waits, high nibble first; after it MODE = m and
DOUT = lo(b). -/
def Obligations.ByteWriteRuns : Prop :=
  ∀ (s : State) (m : Mode) (b : Byte) (rest : List Event), Running s (byteWrite s.cfg m b ++ rest) →
    byteWrite s.cfg m b =
      [.setMode m, .setData (b.extractLsb' 4 4), .strobe, .wait s.cfg.tSettle,
       .setMode m, .setData (b.extractLsb' 0 4), .strobe, .wait (settle s.cfg m b)] ∧
    ∃ t, runSteps 8 s = .next t ∧ t.seq = .busy rest ∧ t.events = s.events ++ byteWrite s.cfg m b ∧
      t.mode = m ∧ t.dout = lo b ∧ t.statuses = s.statuses ∧ t.script = s.script ∧ t.opmem = s.opmem ∧
      t.cfg = s.cfg

/-- R64: the wait after the low nibble; under a legal configuration the one for CLEAR_DISPLAY is the longer (R8). -/
def Obligations.SettleWaits : Prop :=
  ∀ (c : Config) (m : Mode) (b : Byte),
    (m = .instruction ∧ b = 0x01 → settle c m b = c.tClear) ∧
    (¬ (m = .instruction ∧ b = 0x01) → settle c m b = c.tSettle) ∧
    (c.legal = true → (c.tSettle < settle c m b ↔ m = .instruction ∧ b = 0x01))

/-- R67: two byte writes one after the other emit 16 events, in order, whatever their bytes and modes, the same byte in
the same mode included, and every nibble transfer repeats its `SetMode`. -/
def Obligations.ByteWritesAreNotMerged : Prop :=
  ∀ (s : State) (m m' : Mode) (b b' : Byte) (rest : List Event),
    Running s (byteWrite s.cfg m b ++ (byteWrite s.cfg m' b' ++ rest)) →
    ∃ t, runSteps 16 s = .next t ∧ t.seq = .busy rest ∧
      t.events = s.events ++ (byteWrite s.cfg m b ++ byteWrite s.cfg m' b') ∧
      (byteWrite s.cfg m b ++ byteWrite s.cfg m' b').length = 16 ∧
      (byteWrite s.cfg m b ++ byteWrite s.cfg m' b').filter isSetMode =
        [.setMode m, .setMode m, .setMode m', .setMode m']

/-- R70: a WINS or WDAT brings the LCD exactly two nibbles, high then low, each with its mode. -/
def Obligations.ByteWriteLatchesTwoNibbles : Prop :=
  ∀ (c : Config) (m m' : Mode) (d : Nibble) (b : Byte),
    latched m' d (byteWrite c m b) = [(m, hi b), (m, lo b)] ∧ (byteWrite c m b).countP isStrobe = 2

/-! ### Commands -/

/-- R22, R23, R68, R69, R79, R93, R95: issued to an Idle block, the commands without an argument check are accepted with
their traces; nothing of the block but SEQ changes. What INIT and WINS make of `sync`, the model's record of how far the LCD
is known (notes/assumptions/35.md), follows R125, R130 and 93 U12 (36.md). -/
def Obligations.UncheckedCommandsAccepted : Prop :=
  ∀ s : State, s.seq = .idle →
    (∀ code : Byte, exec (.wins code) s = .next
      { s with
        seq := .busy (byteWrite s.cfg .instruction code),
        sync :=
          if s.sync = .inStep ∧ 0x30 ≤ code.toNat ∧ code.toNat ≤ 0x3F then .eightBit
          else if s.sync = .inStep ∧ code = 0x00 then .unspecified
          else s.sync }) ∧
    (∀ d : Byte, exec (.wdat d) s = .next { s with seq := .busy (byteWrite s.cfg .data d) }) ∧
    exec .clrh s = .next
      { s with seq := .busy (byteWrite s.cfg .instruction 0x01 ++ byteWrite s.cfg .instruction 0x02) } ∧
    exec .line2 s = .next { s with seq := .busy (byteWrite s.cfg .instruction s.cfg.line2Cmd) } ∧
    exec .init s = .next
      { s with
        sync := .inStep,
        seq := .busy ([.setMode .instruction, .wait s.cfg.tPowerOn] ++ byteWrite s.cfg .instruction 0x33 ++
            byteWrite s.cfg .instruction 0x32 ++ byteWrite s.cfg .instruction 0x28 ++
            byteWrite s.cfg .instruction s.cfg.initEntryMode ++
            byteWrite s.cfg .instruction s.cfg.initDisplayControl ++
            byteWrite s.cfg .instruction 0x01 ++ byteWrite s.cfg .instruction 0x02 ++ [.setMode .data]) }

/-- R89, R90: WSTR of a string of `L` bytes whose terminator lies in the memory is accepted with one data byte write per
character, in order. -/
def Obligations.WstrSendsTheString : Prop :=
  ∀ (s : State) (addr : BitVec 16) (L : Nat), s.seq = .idle →
    addr.toNat + L < s.cfg.opmemSize →
    (∀ i, i < L → readCell s.opmem (addr.toNat + i) ≠ 0x00) →
    readCell s.opmem (addr.toNat + L) = 0x00 →
    exec (.wstr addr) s = .next
      { s with seq := .busy ((List.range L).flatMap (fun i => byteWrite s.cfg .data (readCell s.opmem (addr.toNat + i)))) }

/-- R90: WSTR whose address is outside the memory, or whose string has no terminator in it, is rejected whole. -/
def Obligations.WstrRejectsUnterminated : Prop :=
  ∀ (s : State) (addr : BitVec 16), s.seq = .idle →
    s.cfg.opmemSize ≤ addr.toNat ∨
      (∀ j, addr.toNat ≤ j → j < s.cfg.opmemSize → readCell s.opmem j ≠ 0x00) →
    exec (.wstr addr) s = .next { s with statuses := s.statuses ++ [.invalidArgument] }

/-- R97, R103, R104: LDGLY of `n` legal glyphs is accepted with, for each glyph, its CGRAM address instruction and its
eight rows, and then 0x80. -/
def Obligations.LdglySendsTheGlyphs : Prop :=
  ∀ (s : State) (cnt : BitVec 4) (addr : BitVec 16), s.seq = .idle →
    1 ≤ cnt.toNat → cnt.toNat ≤ 8 → addr.toNat + 8 * cnt.toNat ≤ s.cfg.opmemSize →
    (∀ i, i < 8 * cnt.toNat → (readCell s.opmem (addr.toNat + i)).toNat ≤ 0x1F) →
    exec (.ldgly cnt addr) s = .next
      { s with seq := .busy ((List.range cnt.toNat).flatMap (fun k =>
              byteWrite s.cfg .instruction (0x40 ||| (BitVec.ofNat 8 k <<< 3)) ++
              (List.range 8).flatMap (fun r =>
                byteWrite s.cfg .data (readCell s.opmem (addr.toNat + 8 * k + r)))) ++
            byteWrite s.cfg .instruction 0x80) }

/-- R98: LDGLY of more than 8 glyphs is rejected with INVALID_ARGUMENT and emits nothing. -/
def Obligations.LdglyRejectsMoreThanEight : Prop :=
  ∀ (s : State) (cnt : BitVec 4) (addr : BitVec 16), s.seq = .idle → 8 < cnt.toNat →
    exec (.ldgly cnt addr) s = .next { s with statuses := s.statuses ++ [.invalidArgument] }

/-- R99: LDGLY of a set that does not fit in the operand memory is rejected; the sum does not wrap. -/
def Obligations.LdglyRejectsSetOutsideMemory : Prop :=
  ∀ (s : State) (cnt : BitVec 4) (addr : BitVec 16), s.seq = .idle → 1 ≤ cnt.toNat → cnt.toNat ≤ 8 →
    s.cfg.opmemSize < addr.toNat + 8 * cnt.toNat →
    exec (.ldgly cnt addr) s = .next { s with statuses := s.statuses ++ [.invalidArgument] }

/-- R100: LDGLY of a set in the memory with any row byte above 0x1F is rejected before the first byte. -/
def Obligations.LdglyRejectsWideRow : Prop :=
  ∀ (s : State) (cnt : BitVec 4) (addr : BitVec 16) (i : Nat), s.seq = .idle → 1 ≤ cnt.toNat → cnt.toNat ≤ 8 →
    addr.toNat + 8 * cnt.toNat ≤ s.cfg.opmemSize → i < 8 * cnt.toNat →
    0x1F < (readCell s.opmem (addr.toNat + i)).toNat →
    exec (.ldgly cnt addr) s = .next { s with statuses := s.statuses ++ [.invalidArgument] }

/-- R105: `LDGLY 0, a` completes with status OK for every `a` and every memory, emits no event and leaves MODE
unchanged. -/
def Obligations.LdglyEmptySet : Prop :=
  ∀ (s : State) (addr : BitVec 16) (ms : List HostMove), NextMove s (.issue (commandWord 0x7 0 addr 0)) ms →
    runSteps 2 s = .next { s with script := ms, statuses := s.statuses ++ [.ok] }

/-- R88, R91, R106, R134: how many events, strobes, waits and milliseconds each trace has: INIT, WINS of any byte but
0x01, WINS 0x01, WDAT, WSTR, CLRH, LINE2, LDGLY of 1 to 8 glyphs, LDGLY of none. -/
def Obligations.TraceCounts : Prop :=
  ∀ c : Config, c.legal = true →
    (HasCounts (initTrace c) 59 14 15 (c.tPowerOn + 13 * c.tSettle + c.tClear) ∧
      (initTrace c).countP isSetData = 14 ∧ (initTrace c).countP isSetMode = 16 ∧
      (initTrace c).count (.setMode .instruction) = 15 ∧ (initTrace c).count (.setMode .data) = 1) ∧
    (∀ code : Byte, code ≠ 0x01 → HasCounts (byteWrite c .instruction code) 8 2 2 (2 * c.tSettle)) ∧
    HasCounts (byteWrite c .instruction 0x01) 8 2 2 (c.tSettle + c.tClear) ∧
    (∀ d : Byte, HasCounts (byteWrite c .data d) 8 2 2 (2 * c.tSettle)) ∧
    (∀ bytes : List Byte, HasCounts (stringTrace c bytes) (8 * bytes.length) (2 * bytes.length) (2 * bytes.length)
      (2 * bytes.length * c.tSettle)) ∧
    HasCounts (clearHomeTrace c) 16 4 4 (3 * c.tSettle + c.tClear) ∧
    HasCounts (byteWrite c .instruction c.line2Cmd) 8 2 2 (2 * c.tSettle) ∧
    (∀ (n : Nat) (rows : List Byte), 1 ≤ n → n ≤ 8 → rows.length = 8 * n →
      HasCounts (ldglyTrace c n rows) (72 * n + 8) (18 * n + 2) (18 * n + 2) ((18 * n + 2) * c.tSettle)) ∧
    (∀ rows : List Byte, HasCounts (ldglyTrace c 0 rows) 0 0 0 0)

/-- R80: the initialization FSM emits the trace of INIT and is then done. That INIT sets `sync`, the record of how far the
LCD is known, is the model's choice (notes/assumptions/35.md). -/
def Obligations.InitFsmEmitsInitTrace : Prop :=
  ∀ (s : State) (c : Config) (extra : Nat), s.seq = .idle → s.cfg = c →
    exec .init s = .next { s with seq := .busy (initFsmTrace c (10 + extra) .start), sync := .inStep }

/-- R102: the upload FSM, over the rows in memory, emits the trace of an accepted LDGLY and is then done. -/
def Obligations.GlyphFsmEmitsLdglyTrace : Prop :=
  ∀ (s : State) (cnt : BitVec 4) (addr : BitVec 16) (extra : Nat), s.seq = .idle →
    1 ≤ cnt.toNat → cnt.toNat ≤ 8 → addr.toNat + 8 * cnt.toNat ≤ s.cfg.opmemSize →
    (∀ i, i < 8 * cnt.toNat → (readCell s.opmem (addr.toNat + i)).toNat ≤ 0x1F) →
    exec (.ldgly cnt addr) s = .next
      { s with seq := .busy (glyphFsmTrace s.cfg (fun k r => readCell s.opmem (addr.toNat + 8 * k + r)) cnt.toNat
            (9 * cnt.toNat + 1 + extra) (.addr 0)) }

/-- R57: CLEAR then HOME has exactly the trace of one CLRH. -/
def Obligations.ClearThenHomeIsClrh : Prop :=
  ∀ s : State, s.seq = .idle →
    ∃ a b t : State,
      exec (lineInstr .clear) s = .next a ∧ exec (lineInstr .home) s = .next b ∧ exec .clrh s = .next t ∧
      t.seq.rest = a.seq.rest ++ b.seq.rest

/-! ### Whole commands and whole runs -/

/-- R22, R23, R114: nothing stops a trace once it has started. Every event is performed in order, one a step (the steps are
the model's reading, notes/assumptions/33.md), the status is OK, MODE and DOUT are what the trace's last SetMode and
SetData wrote, and nothing else of the block changes. -/
def Obligations.StartedTraceRunsToOk : Prop :=
  ∀ (s : State) (rest : List Event), Running s rest →
    ∃ t, runSteps (rest.length + 1) s = .next t ∧ t.seq = .idle ∧ t.events = s.events ++ rest ∧
      t.statuses = s.statuses ++ [.ok] ∧ t.mode = modeAfter s.mode rest ∧ t.dout = doutAfter s.dout rest ∧
      (s.e = 0 → t.e = 0) ∧ t.script = s.script ∧ t.opmem = s.opmem ∧ t.cfg = s.cfg

/-- R19 and the commands' "Flags written": the status, MODE and DOUT each command leaves. -/
def Obligations.EachCommandEnds : Prop :=
  ∀ (s : State) (i : Instr) (w : CommandWord) (ms : List HostMove),
    NextMove s (.issue w) ms → encode i = .word w →
    (i = .init → CommandEnds s ms .ok .data 0x2) ∧
    (∀ code, i = .wins code → CommandEnds s ms .ok .instruction (lo code)) ∧
    (∀ d, i = .wdat d → CommandEnds s ms .ok .data (lo d)) ∧
    (i = .clrh → CommandEnds s ms .ok .instruction 0x2) ∧
    (i = .line2 → CommandEnds s ms .ok .instruction (lo s.cfg.line2Cmd)) ∧
    (∀ addr, i = .wstr addr → readString s addr.toNat = .ok [] → CommandEnds s ms .ok s.mode s.dout) ∧
    (∀ addr bytes b, i = .wstr addr → readString s addr.toNat = .ok (bytes ++ [b]) →
      CommandEnds s ms .ok .data (lo b)) ∧
    (∀ addr st, i = .wstr addr → readString s addr.toNat = .error st →
      CommandEnds s ms .invalidArgument s.mode s.dout) ∧
    (∀ addr, i = .ldgly 0 addr → CommandEnds s ms .ok s.mode s.dout) ∧
    (∀ cnt addr rows, i = .ldgly cnt addr → cnt ≠ 0 → readGlyphSet s cnt.toNat addr.toNat = .ok rows →
      CommandEnds s ms .ok .instruction 0x0) ∧
    (∀ cnt addr st, i = .ldgly cnt addr → readGlyphSet s cnt.toNat addr.toNat = .error st →
      CommandEnds s ms .invalidArgument s.mode s.dout)

/-- R23: when the block is Idle and the host issues a word that decodes to `i`, the step is `exec i` with the move taken
off the host's list. The list is the model's form of the host (notes/assumptions/4.md). -/
def Obligations.StepRunsIssuedCommand : Prop :=
  ∀ (s : State) (w : CommandWord) (ms : List HostMove) (i : Instr), NextMove s (.issue w) ms →
    decodeCommand w = .command i → step s = exec i { s with script := ms }

/-- R60, R72: when a strobe completes an instruction byte in a 4-bit LCD that INIT has brought in step (R126) and that is not
busy, the step is `exec` of the instruction the byte decodes to, with the event performed and the LCD past the byte. The
model's own here: the byte has the RS level of the completing strobe (notes/assumptions/21.md), it then stands in the
instruction register (22.md), and what stands for R126 (35.md). -/
def Obligations.StepRunsLcdInstruction : Prop :=
  ∀ (s : State) (rest : List Event) (h : Nibble) (i : Instr), Running s (.strobe :: rest) →
    s.sync = .inStep → s.mode = .instruction → s.lcd.busy = false → s.lcd.iface = .fourBit (some h) →
    decodeLcdNibbles h s.dout = some i →
    step s = exec i
      { s with
        e := 0, seq := .busy rest, events := s.events ++ [.strobe], fresh := s.fresh + 1,
        lcd := { s.lcd with iface := .fourBit none, ir := h ++ s.dout } }

/-- R109, R115: a command that ends at once with a status is rejected; the status is not OK and nothing else changes. -/
def Obligations.RejectionChangesNothing : Prop :=
  ∀ (s t : State) (w : CommandWord) (ms : List HostMove), NextMove s (.issue w) ms → step s = .next t →
    t.statuses ≠ s.statuses →
    ∃ st, st ≠ .ok ∧ t = { s with script := ms, statuses := s.statuses ++ [st] }

/-- R24, R116: a step returns at most one status, and after it the block is Idle. -/
def Obligations.StatusLeavesTheBlockIdle : Prop :=
  ∀ s t : State, step s = .next t →
    t.statuses = s.statuses ∨ ∃ st, t.statuses = s.statuses ++ [st] ∧ t.seq = .idle

/-- R24: exactly one status per command. Commands to come, in progress and answered are as many after a step as
before. -/
def Obligations.OneStatusPerCommand : Prop :=
  ∀ s t : State, step s = .next t → commandCount t = commandCount s

/-- R19, R20, R21: only SetMode writes MODE, only SetData writes DOUT and only Strobe moves E, but for the step in which an
Idle block's host cycles the power. -/
def Obligations.WhoMovesThePins : Prop :=
  ∀ s t : State, step s = .next t → ¬ (s.seq = .idle ∧ ∃ ms, s.script = .powerCycle :: ms) →
    (t.mode ≠ s.mode → ∃ m rest, s.seq = .busy (.setMode m :: rest) ∧ t.mode = m) ∧
    (t.dout ≠ s.dout → ∃ n rest, s.seq = .busy (.setData n :: rest) ∧ t.dout = n) ∧
    (t.e ≠ s.e → ∃ rest, s.seq = .busy (.strobe :: rest) ∧ t.e = 0)

/-- R23, R87: a command's trace and its rejection depend on the configuration and the operand memory alone, not on MODE,
the pins, earlier commands or the LCD. -/
def Obligations.TraceDependsOnOperandsAlone : Prop :=
  ∀ (i : Instr) (s t s' t' : State), isCommand i = true → s.cfg = t.cfg → s.opmem = t.opmem →
    exec i s = .next s' → exec i t = .next t' →
    s'.seq = t'.seq ∧ (s'.statuses = s.statuses ↔ t'.statuses = t.statuses)

/-! ### Frames -/

/-- R22, R109: what issuing a command leaves unchanged: everything but SEQ when it is accepted, everything but the
returned status when it is rejected; every operand byte reads as before. The model's record `sync`
(notes/assumptions/35.md) changes with an INIT, or a WINS of 0x00 or 0x30..0x3F, alone. -/
def Obligations.CommandFrame : Prop :=
  ∀ (i : Instr) (s t : State), isCommand i = true → exec i s = .next t →
    t.cfg = s.cfg ∧ t.mode = s.mode ∧ t.e = s.e ∧ t.dout = s.dout ∧ t.script = s.script ∧ t.events = s.events ∧
    t.lcd = s.lcd ∧ t.fresh = s.fresh ∧ (∀ a, t.memRead a = s.memRead a) ∧
    (i ≠ .init → (∀ code : Byte, i = .wins code → code.toNat ≠ 0 ∧ ¬ (0x30 ≤ code.toNat ∧ code.toNat ≤ 0x3F)) →
      t.sync = s.sync) ∧
    ((t.statuses = s.statuses ∧ ∃ tr, t.seq = .busy tr) ∨
      (t.seq = s.seq ∧ t.sync = s.sync ∧ t.statuses = s.statuses ++ [.invalidArgument]))

/-- R27, R74: what an LCD instruction leaves unchanged: all of the block and of the host, and in the LCD everything but
what the instruction names, and it leaves the LCD executing (R28). That the instruction and data registers stay is the
model's reading (notes/assumptions/22.md), that CLEAR_DISPLAY leaves the display shift its choice (19.md). -/
def Obligations.LcdInstructionFrame : Prop :=
  ∀ (i : Instr) (s t : State), isCommand i = false → exec i s = .next t →
    t = { s with lcd := t.lcd } ∧ (∀ a, t.memRead a = s.memRead a) ∧ t.lcd.busy = true ∧
    t.lcd.ir = s.lcd.ir ∧ t.lcd.dr = s.lcd.dr ∧ t.lcd.cgram = s.lcd.cgram ∧
    (i ≠ .clearDisplay → t.lcd.ddram = s.lcd.ddram) ∧
    (i ≠ .clearDisplay → (∀ x, i ≠ .returnHome x) → (∀ r x, i ≠ .cursorDisplayShift false r x) →
      (∀ a, i ≠ .setCgramAddr a) → (∀ a, i ≠ .setDdramAddr a) → t.lcd.ac = s.lcd.ac) ∧
    ((∀ x, i ≠ .returnHome x) → (∀ r x, i ≠ .cursorDisplayShift true r x) → t.lcd.shift = s.lcd.shift) ∧
    ((∀ e n f x, i ≠ .functionSet e n f x) →
      t.lcd.iface = s.lcd.iface ∧ t.lcd.twoLines = s.lcd.twoLines ∧ t.lcd.font5x10 = s.lcd.font5x10) ∧
    ((∀ d c k, i ≠ .displayControl d c k) →
      t.lcd.displayOn = s.lcd.displayOn ∧ t.lcd.cursorOn = s.lcd.cursorOn ∧ t.lcd.blinkOn = s.lcd.blinkOn) ∧
    ((∀ n h, i ≠ .entryModeSet n h) → t.lcd.shiftOnWrite = s.lcd.shiftOnWrite ∧
      (i ≠ .clearDisplay → t.lcd.increment = s.lcd.increment))

/-! ### The LCD's instructions (41_lcd_instruction_codes.md R73, R74: general knowledge by the spec's own mark) -/

/-- R74: CLEAR_DISPLAY, RETURN_HOME and the two address instructions. That CLEAR_DISPLAY leaves the display shift as it was
is the model's choice (notes/assumptions/19.md). -/
def Obligations.LcdAddressInstructions : Prop :=
  ∀ s : State,
    (∃ t, exec .clearDisplay s = .next t ∧ (∀ (a : Nat) (ha : a < 128), t.lcd.ddram[a] = 0x20) ∧
      t.lcd.ac = .ddram 0 ∧ t.lcd.increment = true ∧ t.lcd.shift = s.lcd.shift) ∧
    (∀ x, ∃ t, exec (.returnHome x) s = .next t ∧ t.lcd.ac = .ddram 0 ∧ t.lcd.shift = 0 ∧
      t.lcd.ddram = s.lcd.ddram) ∧
    (∀ a, ∃ t, exec (.setCgramAddr a) s = .next t ∧ t.lcd.ac = .cgram a ∧ t.lcd.shift = s.lcd.shift) ∧
    (∀ a, ∃ t, exec (.setDdramAddr a) s = .next t ∧ t.lcd.ac = .ddram a ∧ t.lcd.shift = s.lcd.shift)

/-- R73, R74, R78: ENTRY_MODE_SET, DISPLAY_CONTROL and FUNCTION_SET set their fields and leave the address counter. That a
FUNCTION_SET with DL = 0 leaves the LCD expecting a high nibble is the model's reading of R83 (notes/assumptions/32.md).
In a run, DL = 1 has this effect in an INIT alone (36.md). -/
def Obligations.LcdSettingInstructions : Prop :=
  ∀ s : State,
    (∀ n h, ∃ t, exec (.entryModeSet n h) s = .next t ∧ t.lcd.increment = n ∧ t.lcd.shiftOnWrite = h ∧
      t.lcd.ac = s.lcd.ac ∧ t.lcd.shift = s.lcd.shift) ∧
    (∀ d c k, ∃ t, exec (.displayControl d c k) s = .next t ∧ t.lcd.displayOn = d ∧ t.lcd.cursorOn = c ∧
      t.lcd.blinkOn = k ∧ t.lcd.ac = s.lcd.ac ∧ t.lcd.shift = s.lcd.shift) ∧
    (∀ e n f x, ∃ t, exec (.functionSet e n f x) s = .next t ∧ t.lcd.twoLines = n ∧ t.lcd.font5x10 = f ∧
      (e = true → t.lcd.iface = .eightBit) ∧ (e = false → t.lcd.iface = .fourBit none) ∧
      t.lcd.ac = s.lcd.ac ∧ t.lcd.shift = s.lcd.shift)

/-- R73, R74: CURSOR_DISPLAY_SHIFT moves the display, or the cursor at the address counter, by one; past an end of the
RAM the counter is a free value, of which nothing but the RAM is said. The model's own here: the counter stays in its RAM
past an end (notes/assumptions/16.md), it moves from every DDRAM address to the next without a gap (17.md), the display
shift has no wrap (19.md), the cursor stands at the counter (20.md). -/
def Obligations.LcdShiftInstruction : Prop :=
  ∀ (s : State) (r : Bool) (x : BitVec 2),
    (∃ t, exec (.cursorDisplayShift true r x) s = .next t ∧ t.lcd.ac = s.lcd.ac ∧
      t.lcd.shift = if r then s.lcd.shift + 1 else s.lcd.shift - 1) ∧
    (∃ t, exec (.cursorDisplayShift false r x) s = .next t ∧ t.lcd.shift = s.lcd.shift ∧
      (∀ a, s.lcd.ac = .ddram a → ∃ a', t.lcd.ac = .ddram a' ∧
        (r = true → a.toNat < 0x7F → a'.toNat = a.toNat + 1) ∧
        (r = false → 0 < a.toNat → a'.toNat + 1 = a.toNat)) ∧
      (∀ a, s.lcd.ac = .cgram a → ∃ a', t.lcd.ac = .cgram a' ∧
        (r = true → a.toNat < 0x3F → a'.toNat = a.toNat + 1) ∧
        (r = false → 0 < a.toNat → a'.toNat + 1 = a.toNat)))

/-- R78, R83, R130: an LCD in 8-bit mode takes each strobe as a whole byte, whose lower nibble comes from the lines the
block does not drive. In an INIT (`inStep`) with RS = Instruction the step is `exec` of the instruction that byte decodes
to, and whatever those lines carry a nibble 0x3 keeps 8-bit mode and a nibble 0x2 switches to 4-bit mode; with RS = Data,
which INIT never strobes, the byte is written at the address counter and nowhere else. Since a WINS of 0x30..0x3F
(`eightBit`) every byte read, in 8-bit mode or as the two nibbles that complete the WINS, leaves 8-bit mode on, whichever
byte it is, and stands in its register; nothing else is said of the LCD (93 U12). The model's own here: an instruction or
data write sets busy (notes/assumptions/12.md), the undriven lines are a free nibble (15.md), the counter moves without a
gap (17.md), the registers hold the last byte (22.md), a CGRAM byte keeps its 8 bits (23.md), after 0x2 the LCD expects a
high nibble (32.md), what stands for R126 (35.md), and R130(a) read together with 93 U12 (36.md). -/
def Obligations.StrobeInEightBitMode : Prop :=
  (∀ (s : State) (rest : List Event), Running s (.strobe :: rest) → s.sync = .inStep → s.mode = .instruction →
    s.lcd.busy = false → s.lcd.iface = .eightBit →
    (∀ (x : Nibble) (i : Instr), x = Config.undrivenNibble (s.fresh + 1) → decodeLcdNibbles s.dout x = some i →
      step s = exec i
        { s with
          e := 0, seq := .busy rest, events := s.events ++ [.strobe], fresh := s.fresh + 1,
          lcd := { s.lcd with ir := s.dout ++ x } }) ∧
    (s.dout = 0x3 → ∃ t, step s = .next t ∧ t.lcd.iface = .eightBit ∧
      t.lcd.ac = s.lcd.ac ∧ t.lcd.ddram = s.lcd.ddram ∧ t.lcd.cgram = s.lcd.cgram) ∧
    (s.dout = 0x2 → ∃ t, step s = .next t ∧ t.lcd.iface = .fourBit none ∧
      t.lcd.ac = s.lcd.ac ∧ t.lcd.ddram = s.lcd.ddram ∧ t.lcd.cgram = s.lcd.cgram)) ∧
  (∀ (s : State) (rest : List Event) (b : Byte), Running s (.strobe :: rest) → s.sync = .inStep → s.mode = .data →
    s.lcd.busy = false → s.lcd.iface = .eightBit → b = s.dout ++ Config.undrivenNibble (s.fresh + 1) →
    ∃ t, step s = .next t ∧ t.lcd.iface = .eightBit ∧ t.lcd.dr = b ∧ t.lcd.busy = true ∧
      (∀ a, s.lcd.ac = .ddram a →
        (∀ (x : Nat) (hx : x < 128), t.lcd.ddram[x] = if x = a.toNat then b else s.lcd.ddram[x]) ∧
        t.lcd.cgram = s.lcd.cgram ∧
        (s.lcd.increment = true → a ≠ 0x7F → t.lcd.ac = .ddram (a + 1)) ∧
        (s.lcd.increment = false → a ≠ 0 → t.lcd.ac = .ddram (a - 1))) ∧
      (∀ a, s.lcd.ac = .cgram a →
        (∀ (x : Nat) (hx : x < 64), t.lcd.cgram[x] = if x = a.toNat then b else s.lcd.cgram[x]) ∧
        t.lcd.ddram = s.lcd.ddram ∧
        (s.lcd.increment = true → a ≠ 0x3F → t.lcd.ac = .cgram (a + 1)) ∧
        (s.lcd.increment = false → a ≠ 0 → t.lcd.ac = .cgram (a - 1)))) ∧
  (∀ (s : State) (rest : List Event) (b : Byte), Running s (.strobe :: rest) → s.sync = .eightBit →
    s.lcd.busy = false →
    (s.lcd.iface = .eightBit ∧ b = s.dout ++ Config.undrivenNibble (s.fresh + 1) ∨
      ∃ h, s.lcd.iface = .fourBit (some h) ∧ b = h ++ s.dout) →
    ∃ t, step s = .next t ∧ t.lcd.iface = .eightBit ∧ t.sync = .eightBit ∧
      (s.mode = .instruction → t.lcd.ir = b) ∧ (s.mode = .data → t.lcd.dr = b))

/-- R87, R125, R126, R130: only INIT brings the LCD to a state of which anything is known. A step that makes the LCD known
issues INIT; a step that ends what WINS of 0x30..0x3F left issues INIT or cycles the power; and while no INIT has been
issued since power-up, every strobe leaves the LCD in any state (93 U19, U20): a free value. The record `sync` of what is
known is the model's own form (notes/assumptions/35.md), and what WINS of 0x30..0x3F leaves is its reading (36.md). -/
def Obligations.OnlyInitBringsLcdBack : Prop :=
  ∀ s t : State, step s = .next t →
    (s.sync ≠ .inStep → t.sync = .inStep → s.seq = .idle ∧ ∃ ms, s.script = .issue 0x10000000 :: ms) ∧
    (s.sync = .eightBit → t.sync ≠ .eightBit →
      s.seq = .idle ∧ ∃ ms, s.script = .issue 0x10000000 :: ms ∨ s.script = .powerCycle :: ms) ∧
    (∀ rest, s.sync = .unspecified → s.seq = .busy (.strobe :: rest) →
      t.lcd = Config.anyLcd (s.fresh + 1) ∧ t.sync = .unspecified)

/-- R28, R63: a byte write leaves a ready 4-bit LCD ready: a data byte always, an instruction byte unless it belongs to no
class or switches the interface to 8 bits (R130). Ready takes INIT as a premise (R126). The model's own here: any wait ends
the LCD's busy state, however short (notes/assumptions/12.md), the registers hold the last byte (22.md), a FUNCTION_SET with
DL = 0 leaves the LCD expecting a high nibble (32.md), and what stands for R126 (35.md). -/
def Obligations.ByteWriteKeepsLcdInStep : Prop :=
  ∀ (s : State) (m : Mode) (b : Byte) (rest : List Event), Running s (byteWrite s.cfg m b ++ rest) →
    LcdReady s → m = .data ∨ keepsStep b = true →
    ∃ t, runSteps 8 s = .next t ∧ LcdReady t ∧ (m = .instruction → t.lcd.ir = b) ∧ (m = .data → t.lcd.dr = b)

/-- R37, R69, R74: WDAT on a ready LCD writes the byte at the address counter of the selected RAM and changes no other
cell. Ready takes INIT as a premise (R126, R133). The model's own here: any wait ends the LCD's busy state, however short
(notes/assumptions/12.md), the counter moves from every DDRAM address below 0x7F to the next (17.md), a CGRAM byte keeps its
8 bits (23.md), and what stands for R126 (35.md). -/
def Obligations.WdatWritesAtTheCounter : Prop :=
  ∀ (s : State) (d : Byte) (ms : List HostMove), NextMove s (.issue (commandWord 0x3 0 0 d)) ms → LcdReady s →
    ∃ t, runSteps 10 s = .next t ∧ t.seq = .idle ∧ LcdReady t ∧
      (∀ a, s.lcd.ac = .ddram a →
        (∀ (x : Nat) (hx : x < 128), t.lcd.ddram[x] = if x = a.toNat then d else s.lcd.ddram[x]) ∧
        t.lcd.cgram = s.lcd.cgram ∧
        (s.lcd.increment = true → a ≠ 0x7F → t.lcd.ac = .ddram (a + 1)) ∧
        (s.lcd.increment = false → a ≠ 0 → t.lcd.ac = .ddram (a - 1))) ∧
      (∀ a, s.lcd.ac = .cgram a →
        (∀ (x : Nat) (hx : x < 64), t.lcd.cgram[x] = if x = a.toNat then d else s.lcd.cgram[x]) ∧
        t.lcd.ddram = s.lcd.ddram ∧
        (s.lcd.increment = true → a ≠ 0x3F → t.lcd.ac = .cgram (a + 1)) ∧
        (s.lcd.increment = false → a ≠ 0 → t.lcd.ac = .cgram (a - 1)))

/-! ### Headline results -/

/-- What every step keeps, from every state that has it: a legal configuration (R8), E low (R20), the operand memory in
canonical form within OPMEM_SIZE (R31), no wait of 0 ms ahead (R61). -/
def Obligations.StepKeepsInvariant : Prop :=
  ∀ s t : State, Inv s → step s = .next t → Inv t

/-- The invariant holds after reset. -/
def Obligations.ResetHasInvariant : Prop := Inv State.reset

/-- R127: unless the host cycles the power, a step from a state in which the block never strobes a busy LCD leads to
such a state; and INIT, given to an Idle block, leads to one whatever the LCD was doing. That a wait ends the LCD's busy
state, however short, is the model's choice (notes/assumptions/12.md). -/
def Obligations.StepKeepsLcdPaced : Prop :=
  (∀ s t : State, LcdPaced s → noPowerCycle s.script = true → step s = .next t →
    LcdPaced t ∧ noPowerCycle t.script = true) ∧
  (∀ s : State, s.seq = .idle → ∃ t, exec .init s = .next t ∧ LcdPaced t)

/-- R114, 92 D30: the block cannot tell two LCDs apart. Two runs that start in states that differ only in the LCD (and in
the free values to come) agree in everything else after any number of steps. -/
def Obligations.BlockIgnoresTheLcd : Prop :=
  ∀ (k : Nat) (s t : State), SameBlock s t → SameOutcome (runSteps k s) (runSteps k t)

/-- R83, R84, R125: INIT brings the LCD to one known state, whatever state it was in: 8-bit or 4-bit at either nibble
phase, busy or not, with any contents, before the first INIT, or left in 8-bit mode by WINS. The model's own here: any wait
ends the LCD's busy state, at the start and after RETURN_HOME too, however short (notes/assumptions/12.md; 93 U23), a
FUNCTION_SET with DL = 0 leaves the LCD expecting a high nibble (32.md), the form of what is known (35.md), and the LCD is
present and works (38.md; 93 U11). -/
def Obligations.InitBringsAnyLcdToKnownState : Prop :=
  ∀ (s : State) (ms : List HostMove), NextMove s (.issue 0x10000000) ms →
    ∃ t, runSteps 61 s = .next t ∧ t.seq = .idle ∧ t.statuses = s.statuses ++ [.ok] ∧ t.mode = .data ∧
      LcdReady t ∧ t.lcd.twoLines = true ∧ t.lcd.font5x10 = false ∧
      t.lcd.increment = true ∧ t.lcd.shiftOnWrite = s.cfg.initEntryMode.getLsbD 0 ∧
      t.lcd.displayOn = s.cfg.initDisplayControl.getLsbD 2 ∧
      t.lcd.cursorOn = s.cfg.initDisplayControl.getLsbD 1 ∧
      t.lcd.blinkOn = s.cfg.initDisplayControl.getLsbD 0 ∧
      t.lcd.ac = .ddram 0 ∧ t.lcd.shift = 0 ∧ (∀ (a : Nat) (ha : a < 128), t.lcd.ddram[a] = 0x20)

/-- R89, R92, R37: WSTR on a ready LCD whose counter increments in DDRAM puts the string's characters in the cells from
the counter on, and changes no other cell. Ready takes INIT as a premise (R126, R133). The model's own here: any wait ends
the LCD's busy state, however short (notes/assumptions/12.md), text runs on past 0x27 from every DDRAM address to the next,
which 17.md calls unsafe, and what stands for R126 (35.md). -/
def Obligations.WstrPutsTextInDdram : Prop :=
  ∀ (s : State) (addr : BitVec 16) (ms : List HostMove) (bytes : List Byte) (p : BitVec 7),
    NextMove s (.issue (commandWord 0x4 0 addr 0)) ms → readString s addr.toNat = .ok bytes → LcdReady s →
    s.lcd.increment = true → s.lcd.ac = .ddram p → p.toNat + bytes.length ≤ 128 →
    ∃ t, runSteps (8 * bytes.length + 2) s = .next t ∧ t.seq = .idle ∧ t.statuses = s.statuses ++ [.ok] ∧
      LcdReady t ∧ t.lcd.cgram = s.lcd.cgram ∧
      (∀ (i : Nat) (hi : i < bytes.length) (hx : p.toNat + i < 128), t.lcd.ddram[p.toNat + i] = bytes[i]) ∧
      (∀ (x : Nat) (hx : x < 128), x < p.toNat ∨ p.toNat + bytes.length ≤ x → t.lcd.ddram[x] = s.lcd.ddram[x]) ∧
      (p.toNat + bytes.length < 128 → t.lcd.ac = .ddram (p + BitVec.ofNat 7 bytes.length))

/-- R97, R103, R104, R107: LDGLY of `n` glyphs on a ready LCD whose counter increments puts row `r` of glyph `k` in CGRAM
byte `8k + r`, leaves the other slots and DDRAM alone, returns to DDRAM address 0, and character codes `k` and `8 + k`
(R77) then show glyph `k`. The model's own here: any wait ends the LCD's busy state, however short
(notes/assumptions/12.md), a CGRAM byte keeps its 8 bits (23.md), what stands for R126 (35.md; ready takes INIT as a
premise), and a glyph shows its eight rows in either font (37.md). -/
def Obligations.LdglyLoadsTheSlots : Prop :=
  ∀ (s : State) (cnt : BitVec 4) (addr : BitVec 16) (ms : List HostMove) (rows : List Byte),
    NextMove s (.issue (commandWord 0x7 cnt addr 0)) ms → 1 ≤ cnt.toNat →
    readGlyphSet s cnt.toNat addr.toNat = .ok rows → LcdReady s → s.lcd.increment = true →
    ∃ t, runSteps (72 * cnt.toNat + 10) s = .next t ∧ t.seq = .idle ∧ t.statuses = s.statuses ++ [.ok] ∧
      LcdReady t ∧ t.lcd.ddram = s.lcd.ddram ∧ t.lcd.ac = .ddram 0 ∧
      (∀ (x : Nat) (hx : x < 64), t.lcd.cgram[x] =
        if x < 8 * cnt.toNat then readCell s.opmem (addr.toNat + x) else s.lcd.cgram[x]) ∧
      (∀ (k : Nat) (code : Byte), k < cnt.toNat → code.toNat = k ∨ code.toNat = 8 + k →
        shownPattern t.lcd code =
          (List.range 8).map (fun r => (readCell s.opmem (addr.toNat + 8 * k + r)).extractLsb' 0 5))
end

