-- ==== Sys2Proof/Laws/Memory.lean ====
section
/-! SUPPORT. The operand memory: a read after a write, the canonical form, and that equal contents are equal data. -/

namespace Sys2Proof.Machine

/-- Every listed address is above `a`. -/
abbrev AllAbove (a : Nat) (m : Memory) : Prop := ∀ c ∈ m, a < c.1

theorem wf_cons (k : Nat) (v : Byte) (rest : Memory) :
    Memory.wf ((k, v) :: rest) = true ↔ AllAbove k rest ∧ v ≠ unlistedByte ∧ Memory.wf rest = true := by
  simp [Memory.wf, AllAbove, and_assoc]

/-- An address below every listed one is unlisted. -/
theorem readCell_of_allAbove {m : Memory} {a : Nat} (h : AllAbove a m) : readCell m a = unlistedByte := by
  induction m with
  | nil => rfl
  | cons c rest ih =>
    obtain ⟨k, v⟩ := c
    have hk : a < k := h (k, v) (by simp)
    have hr : AllAbove a rest := fun c hc => h c (by simp [hc])
    simp only [readCell, if_neg (by omega : ¬ k = a)]
    exact ih hr

theorem AllAbove.trans {m : Memory} {a k : Nat} (hak : a < k) (h : AllAbove k m) : AllAbove a m :=
  fun c hc => Nat.lt_trans hak (h c hc)

/-- Putting a cell in front of cells above it: a read sees the new byte at its address and the old cells elsewhere. -/
theorem readCell_consCell {m : Memory} {a : Nat} (h : AllAbove a m) (b : Byte) (x : Nat) :
    readCell (consCell a b m) x = if x = a then b else readCell m x := by
  unfold consCell
  split
  · rename_i hb
    split
    · rename_i hx; rw [hx, readCell_of_allAbove h, hb]
    · rfl
  · by_cases hx : x = a
    · simp [readCell, hx]
    · simp [readCell, hx, Ne.symm hx]

theorem wf_consCell {m : Memory} {a : Nat} (h : AllAbove a m) (hm : Memory.wf m = true) (b : Byte) :
    Memory.wf (consCell a b m) = true := by
  unfold consCell
  split
  · exact hm
  · rename_i hb; exact (wf_cons a b m).2 ⟨h, hb, hm⟩

theorem allAbove_consCell {m : Memory} {a k : Nat} (hka : k < a) (h : AllAbove k m) (b : Byte) :
    AllAbove k (consCell a b m) := by
  unfold consCell
  split
  · exact h
  · intro c hc
    rcases List.mem_cons.1 hc with rfl | hc
    · exact hka
    · exact h c hc

theorem allAbove_writeCell {m : Memory} {a k : Nat} (hka : k < a) (h : AllAbove k m) (b : Byte) :
    AllAbove k (writeCell m a b) := by
  induction m with
  | nil => exact allAbove_consCell hka h b
  | cons c rest ih =>
    obtain ⟨k', v⟩ := c
    have hr : AllAbove k rest := fun c hc => h c (by simp [hc])
    unfold writeCell
    split
    · exact allAbove_consCell hka h b
    · split
      · exact allAbove_consCell hka hr b
      · intro c hc
        rcases List.mem_cons.1 hc with rfl | hc
        · exact h _ (by simp)
        · exact ih hr c hc

/-- Read after write, on a memory in canonical form. -/
theorem readCell_writeCell {m : Memory} (hm : Memory.wf m = true) (a : Nat) (b : Byte) (x : Nat) :
    readCell (writeCell m a b) x = if x = a then b else readCell m x := by
  induction m with
  | nil => exact readCell_consCell (by simp) b x
  | cons c rest ih =>
    obtain ⟨k, v⟩ := c
    obtain ⟨hk, -, hr⟩ := (wf_cons k v rest).1 hm
    unfold writeCell
    split
    · rename_i hak
      refine readCell_consCell (fun c hc => ?_) b x
      rcases List.mem_cons.1 hc with rfl | hc
      · exact hak
      · exact Nat.lt_trans hak (hk c hc)
    · split
      · rename_i hak
        subst hak
        rw [readCell_consCell hk b x]
        by_cases hx : x = a
        · simp [hx]
        · simp [hx, readCell, Ne.symm hx]
      · rename_i h1 h2
        by_cases hx : k = x
        · subst hx
          simp [readCell, Ne.symm h2]
        · simp only [readCell, if_neg hx]
          exact ih hr

/-- A write keeps the canonical form. -/
theorem writeCell_wf {m : Memory} (hm : Memory.wf m = true) (a : Nat) (b : Byte) :
    Memory.wf (writeCell m a b) = true := by
  induction m with
  | nil => exact wf_consCell (by simp) hm b
  | cons c rest ih =>
    obtain ⟨k, v⟩ := c
    obtain ⟨hk, hv, hr⟩ := (wf_cons k v rest).1 hm
    unfold writeCell
    split
    · rename_i hak
      refine wf_consCell (fun c hc => ?_) hm b
      rcases List.mem_cons.1 hc with rfl | hc
      · exact hak
      · exact Nat.lt_trans hak (hk c hc)
    · split
      · rename_i hak
        subst hak
        exact wf_consCell hk hr b
      · rename_i h1 h2
        exact (wf_cons k v _).2 ⟨allAbove_writeCell (by omega) hk b, hv, ih hr⟩

/-- A write below the bound keeps every listed address below the bound. -/
theorem writeCell_within {m : Memory} {size a : Nat} (ha : a < size) (hm : Memory.within size m = true) (b : Byte) :
    Memory.within size (writeCell m a b) = true := by
  have cons_within : ∀ {r : Memory}, Memory.within size r = true → Memory.within size (consCell a b r) = true := by
    intro r hr
    unfold consCell
    split
    · exact hr
    · simpa [Memory.within, ha] using hr
  induction m with
  | nil => exact cons_within hm
  | cons c rest ih =>
    obtain ⟨k, v⟩ := c
    have hk : k < size ∧ Memory.within size rest = true := by simpa [Memory.within] using hm
    unfold writeCell
    split
    · exact cons_within hm
    · split
      · exact cons_within hk.2
      · have h := ih hk.2
        unfold Memory.within at h ⊢
        rw [List.all_cons, h, Bool.and_true]
        exact decide_eq_true hk.1

/-- Memories in canonical form that read alike everywhere are the same data. -/
theorem memory_ext {m n : Memory} (hm : Memory.wf m = true) (hn : Memory.wf n = true)
    (h : ∀ x, readCell m x = readCell n x) : m = n := by
  induction m generalizing n with
  | nil =>
    cases n with
    | nil => rfl
    | cons c rest =>
      obtain ⟨k, v⟩ := c
      obtain ⟨-, hv, -⟩ := (wf_cons k v rest).1 hn
      exact absurd (by simpa [readCell] using (h k).symm) hv
  | cons c rest ih =>
    obtain ⟨k, v⟩ := c
    obtain ⟨hk, hv, hr⟩ := (wf_cons k v rest).1 hm
    cases n with
    | nil => exact absurd (by simpa [readCell] using h k) hv
    | cons c' rest' =>
      obtain ⟨k', v'⟩ := c'
      obtain ⟨hk', hv', hr'⟩ := (wf_cons k' v' rest').1 hn
      have hkk : k = k' := by
        rcases Nat.lt_trichotomy k k' with hlt | heq | hgt
        · have := h k
          rw [readCell_of_allAbove (m := (k', v') :: rest') (a := k)] at this
          · exact absurd (by simpa [readCell] using this) hv
          · intro c hc
            rcases List.mem_cons.1 hc with rfl | hc
            · exact hlt
            · exact Nat.lt_trans hlt (hk' c hc)
        · exact heq
        · have := h k'
          rw [readCell_of_allAbove (m := (k, v) :: rest) (a := k')] at this
          · exact absurd (by simpa [readCell] using this.symm) hv'
          · intro c hc
            rcases List.mem_cons.1 hc with rfl | hc
            · exact hgt
            · exact Nat.lt_trans hgt (hk c hc)
      subst hkk
      have hvv : v = v' := by simpa [readCell] using h k
      subst hvv
      have : rest = rest' := by
        refine ih hr hr' fun x => ?_
        by_cases hx : k = x
        · subst hx; rw [readCell_of_allAbove hk, readCell_of_allAbove hk']
        · simpa [readCell, hx] using h x
      rw [this]

end Sys2Proof.Machine
end

