-- ==== Sys2Proof/Laws/PerInstr.lean ====
section
/-! SUPPORT. Statements about every instruction as syntax, one lemma per constructor.

`RowMatch`: the encoding of an instruction has its row's width, and its bits under the row's mask are the row's match,
with the numbers of spec/opcode_table.json (30_encoding.md R49, 41_lcd_instruction_codes.md R72). -/

namespace Sys2Proof.Laws.RowMatch

/-- Width, mask and match of an instruction's row in spec/opcode_table.json. -/
def row : Instr → Nat × Nat × Nat
  | .init => (32, 0xFFFFFFFF, 0x10000000)
  | .wins _ => (32, 0xFFFFFF00, 0x20000000)
  | .wdat _ => (32, 0xFFFFFF00, 0x30000000)
  | .wstr _ => (32, 0xFF0000FF, 0x40000000)
  | .clrh => (32, 0xFFFFFFFF, 0x50000000)
  | .line2 => (32, 0xFFFFFFFF, 0x60000000)
  | .ldgly _ _ => (32, 0xF00000FF, 0x70000000)
  | .clearDisplay => (8, 0xFF, 0x01)
  | .returnHome _ => (8, 0xFE, 0x02)
  | .entryModeSet _ _ => (8, 0xFC, 0x04)
  | .displayControl _ _ _ => (8, 0xF8, 0x08)
  | .cursorDisplayShift _ _ _ => (8, 0xF0, 0x10)
  | .functionSet _ _ _ _ => (8, 0xE0, 0x20)
  | .setCgramAddr _ => (8, 0xC0, 0x40)
  | .setDdramAddr _ => (8, 0x80, 0x80)

/-- A command word under a mask, compared with a match. -/
def fits : Encoded → Nat × Nat × Nat → Bool
  | .word w, (width, mask, value) => width == 32 && w &&& BitVec.ofNat 32 mask == BitVec.ofNat 32 value
  | .byte b, (width, mask, value) => width == 8 && b &&& BitVec.ofNat 8 mask == BitVec.ofNat 8 value

/-- The encoding matches the row. -/
def Statement (i : Instr) : Prop := fits (encode i) (row i) = true

/-- A command word under a mask, field by field. -/
theorem and_commandWord (op cnt op' cnt' : BitVec 4) (addr addr' : BitVec 16) (imm imm' : Byte) :
    commandWord op cnt addr imm &&& commandWord op' cnt' addr' imm' =
      commandWord (op &&& op') (cnt &&& cnt') (addr &&& addr') (imm &&& imm') := by
  have h (a b : BitVec 4) (c : BitVec 16) (d : Byte) : commandWord a b c d =
      (((a ++ b : BitVec (4 + 4)) ++ c : BitVec (4 + 4 + 16)) ++ d : BitVec (4 + 4 + 16 + 8)) := rfl
  rw [h, h, h, ← BitVec.and_append, ← BitVec.and_append, ← BitVec.and_append]

/-- A command row fits if its mask and match are the words `m` and `v` field by field. -/
theorem fits_word {op cnt : BitVec 4} {addr : BitVec 16} {imm : Byte} {mask value : Nat} (op' cnt' : BitVec 4)
    (addr' : BitVec 16) (imm' : Byte) (hm : BitVec.ofNat 32 mask = commandWord op' cnt' addr' imm')
    (hv : commandWord (op &&& op') (cnt &&& cnt') (addr &&& addr') (imm &&& imm') = BitVec.ofNat 32 value) :
    fits (.word (commandWord op cnt addr imm)) (32, mask, value) = true := by
  simp [fits, hm, and_commandWord, hv]

theorem init : Statement .init := by unfold Statement; decide

theorem wins (imm : Byte) : Statement (.wins imm) :=
  fits_word 0xF 0xF 0xFFFF 0#8 (by decide) (by rw [BitVec.and_zero (x := imm)]; decide)

theorem wdat (imm : Byte) : Statement (.wdat imm) :=
  fits_word 0xF 0xF 0xFFFF 0#8 (by decide) (by rw [BitVec.and_zero (x := imm)]; decide)

theorem wstr (addr : BitVec 16) : Statement (.wstr addr) :=
  fits_word 0xF 0xF 0#16 0xFF (by decide) (by rw [BitVec.and_zero (x := addr)]; decide)

theorem clrh : Statement .clrh := by unfold Statement; decide

theorem line2 : Statement .line2 := by unfold Statement; decide

theorem ldgly (cnt : BitVec 4) (addr : BitVec 16) : Statement (.ldgly cnt addr) :=
  fits_word 0xF 0#4 0#16 0xFF (by decide)
    (by rw [BitVec.and_zero (x := addr), BitVec.and_zero (x := cnt)]; decide)

theorem clearDisplay : Statement .clearDisplay := by unfold Statement; decide

theorem returnHome (x : BitVec 1) : Statement (.returnHome x) := by
  unfold Statement; revert x; decide

theorem entryModeSet (i s : Bool) : Statement (.entryModeSet i s) := by
  unfold Statement; revert i s; decide

theorem displayControl (d c b : Bool) : Statement (.displayControl d c b) := by
  unfold Statement; revert d c b; decide

theorem cursorDisplayShift (d r : Bool) (x : BitVec 2) : Statement (.cursorDisplayShift d r x) := by
  unfold Statement; revert d r x; decide

theorem functionSet (e n f : Bool) (x : BitVec 2) : Statement (.functionSet e n f x) := by
  unfold Statement; revert e n f x; decide

theorem setCgramAddr (a : BitVec 6) : Statement (.setCgramAddr a) := by
  unfold Statement; revert a; decide

theorem setDdramAddr (a : BitVec 7) : Statement (.setDdramAddr a) := by
  unfold Statement; revert a; decide

end Sys2Proof.Laws.RowMatch
end

