-- ==== Sys2Proof/Laws/State.lean ====
section
/-! SUPPORT. One lemma per field per update of State, true by rfl: no later proof unfolds a record update. -/

namespace Sys2Proof.Machine

variable (s : State)

@[simp] theorem setMode_cfg (m : Mode) : (s.setMode m).cfg = s.cfg := rfl
@[simp] theorem setMode_mode (m : Mode) : (s.setMode m).mode = m := rfl
@[simp] theorem setMode_e (m : Mode) : (s.setMode m).e = s.e := rfl
@[simp] theorem setMode_dout (m : Mode) : (s.setMode m).dout = s.dout := rfl
@[simp] theorem setMode_seq (m : Mode) : (s.setMode m).seq = s.seq := rfl
@[simp] theorem setMode_opmem (m : Mode) : (s.setMode m).opmem = s.opmem := rfl
@[simp] theorem setMode_script (m : Mode) : (s.setMode m).script = s.script := rfl
@[simp] theorem setMode_statuses (m : Mode) : (s.setMode m).statuses = s.statuses := rfl
@[simp] theorem setMode_events (m : Mode) : (s.setMode m).events = s.events := rfl
@[simp] theorem setMode_lcd (m : Mode) : (s.setMode m).lcd = s.lcd := rfl
@[simp] theorem setMode_sync (m : Mode) : (s.setMode m).sync = s.sync := rfl
@[simp] theorem setMode_fresh (m : Mode) : (s.setMode m).fresh = s.fresh := rfl

@[simp] theorem setE_cfg (l : BitVec 1) : (s.setE l).cfg = s.cfg := rfl
@[simp] theorem setE_mode (l : BitVec 1) : (s.setE l).mode = s.mode := rfl
@[simp] theorem setE_e (l : BitVec 1) : (s.setE l).e = l := rfl
@[simp] theorem setE_dout (l : BitVec 1) : (s.setE l).dout = s.dout := rfl
@[simp] theorem setE_seq (l : BitVec 1) : (s.setE l).seq = s.seq := rfl
@[simp] theorem setE_opmem (l : BitVec 1) : (s.setE l).opmem = s.opmem := rfl
@[simp] theorem setE_script (l : BitVec 1) : (s.setE l).script = s.script := rfl
@[simp] theorem setE_statuses (l : BitVec 1) : (s.setE l).statuses = s.statuses := rfl
@[simp] theorem setE_events (l : BitVec 1) : (s.setE l).events = s.events := rfl
@[simp] theorem setE_lcd (l : BitVec 1) : (s.setE l).lcd = s.lcd := rfl
@[simp] theorem setE_sync (l : BitVec 1) : (s.setE l).sync = s.sync := rfl
@[simp] theorem setE_fresh (l : BitVec 1) : (s.setE l).fresh = s.fresh := rfl

@[simp] theorem setDout_cfg (n : Nibble) : (s.setDout n).cfg = s.cfg := rfl
@[simp] theorem setDout_mode (n : Nibble) : (s.setDout n).mode = s.mode := rfl
@[simp] theorem setDout_e (n : Nibble) : (s.setDout n).e = s.e := rfl
@[simp] theorem setDout_dout (n : Nibble) : (s.setDout n).dout = n := rfl
@[simp] theorem setDout_seq (n : Nibble) : (s.setDout n).seq = s.seq := rfl
@[simp] theorem setDout_opmem (n : Nibble) : (s.setDout n).opmem = s.opmem := rfl
@[simp] theorem setDout_script (n : Nibble) : (s.setDout n).script = s.script := rfl
@[simp] theorem setDout_statuses (n : Nibble) : (s.setDout n).statuses = s.statuses := rfl
@[simp] theorem setDout_events (n : Nibble) : (s.setDout n).events = s.events := rfl
@[simp] theorem setDout_lcd (n : Nibble) : (s.setDout n).lcd = s.lcd := rfl
@[simp] theorem setDout_sync (n : Nibble) : (s.setDout n).sync = s.sync := rfl
@[simp] theorem setDout_fresh (n : Nibble) : (s.setDout n).fresh = s.fresh := rfl

@[simp] theorem setSeq_cfg (q : Seq) : (s.setSeq q).cfg = s.cfg := rfl
@[simp] theorem setSeq_mode (q : Seq) : (s.setSeq q).mode = s.mode := rfl
@[simp] theorem setSeq_e (q : Seq) : (s.setSeq q).e = s.e := rfl
@[simp] theorem setSeq_dout (q : Seq) : (s.setSeq q).dout = s.dout := rfl
@[simp] theorem setSeq_seq (q : Seq) : (s.setSeq q).seq = q := rfl
@[simp] theorem setSeq_opmem (q : Seq) : (s.setSeq q).opmem = s.opmem := rfl
@[simp] theorem setSeq_script (q : Seq) : (s.setSeq q).script = s.script := rfl
@[simp] theorem setSeq_statuses (q : Seq) : (s.setSeq q).statuses = s.statuses := rfl
@[simp] theorem setSeq_events (q : Seq) : (s.setSeq q).events = s.events := rfl
@[simp] theorem setSeq_lcd (q : Seq) : (s.setSeq q).lcd = s.lcd := rfl
@[simp] theorem setSeq_sync (q : Seq) : (s.setSeq q).sync = s.sync := rfl
@[simp] theorem setSeq_fresh (q : Seq) : (s.setSeq q).fresh = s.fresh := rfl

@[simp] theorem setOpmem_cfg (m : Memory) : (s.setOpmem m).cfg = s.cfg := rfl
@[simp] theorem setOpmem_mode (m : Memory) : (s.setOpmem m).mode = s.mode := rfl
@[simp] theorem setOpmem_e (m : Memory) : (s.setOpmem m).e = s.e := rfl
@[simp] theorem setOpmem_dout (m : Memory) : (s.setOpmem m).dout = s.dout := rfl
@[simp] theorem setOpmem_seq (m : Memory) : (s.setOpmem m).seq = s.seq := rfl
@[simp] theorem setOpmem_opmem (m : Memory) : (s.setOpmem m).opmem = m := rfl
@[simp] theorem setOpmem_script (m : Memory) : (s.setOpmem m).script = s.script := rfl
@[simp] theorem setOpmem_statuses (m : Memory) : (s.setOpmem m).statuses = s.statuses := rfl
@[simp] theorem setOpmem_events (m : Memory) : (s.setOpmem m).events = s.events := rfl
@[simp] theorem setOpmem_lcd (m : Memory) : (s.setOpmem m).lcd = s.lcd := rfl
@[simp] theorem setOpmem_sync (m : Memory) : (s.setOpmem m).sync = s.sync := rfl
@[simp] theorem setOpmem_fresh (m : Memory) : (s.setOpmem m).fresh = s.fresh := rfl

@[simp] theorem setScript_cfg (ms : List HostMove) : (s.setScript ms).cfg = s.cfg := rfl
@[simp] theorem setScript_mode (ms : List HostMove) : (s.setScript ms).mode = s.mode := rfl
@[simp] theorem setScript_e (ms : List HostMove) : (s.setScript ms).e = s.e := rfl
@[simp] theorem setScript_dout (ms : List HostMove) : (s.setScript ms).dout = s.dout := rfl
@[simp] theorem setScript_seq (ms : List HostMove) : (s.setScript ms).seq = s.seq := rfl
@[simp] theorem setScript_opmem (ms : List HostMove) : (s.setScript ms).opmem = s.opmem := rfl
@[simp] theorem setScript_script (ms : List HostMove) : (s.setScript ms).script = ms := rfl
@[simp] theorem setScript_statuses (ms : List HostMove) : (s.setScript ms).statuses = s.statuses := rfl
@[simp] theorem setScript_events (ms : List HostMove) : (s.setScript ms).events = s.events := rfl
@[simp] theorem setScript_lcd (ms : List HostMove) : (s.setScript ms).lcd = s.lcd := rfl
@[simp] theorem setScript_sync (ms : List HostMove) : (s.setScript ms).sync = s.sync := rfl
@[simp] theorem setScript_fresh (ms : List HostMove) : (s.setScript ms).fresh = s.fresh := rfl

@[simp] theorem respond_cfg (st : Status) : (s.respond st).cfg = s.cfg := rfl
@[simp] theorem respond_mode (st : Status) : (s.respond st).mode = s.mode := rfl
@[simp] theorem respond_e (st : Status) : (s.respond st).e = s.e := rfl
@[simp] theorem respond_dout (st : Status) : (s.respond st).dout = s.dout := rfl
@[simp] theorem respond_seq (st : Status) : (s.respond st).seq = s.seq := rfl
@[simp] theorem respond_opmem (st : Status) : (s.respond st).opmem = s.opmem := rfl
@[simp] theorem respond_script (st : Status) : (s.respond st).script = s.script := rfl
@[simp] theorem respond_statuses (st : Status) : (s.respond st).statuses = s.statuses ++ [st] := rfl
@[simp] theorem respond_events (st : Status) : (s.respond st).events = s.events := rfl
@[simp] theorem respond_lcd (st : Status) : (s.respond st).lcd = s.lcd := rfl
@[simp] theorem respond_sync (st : Status) : (s.respond st).sync = s.sync := rfl
@[simp] theorem respond_fresh (st : Status) : (s.respond st).fresh = s.fresh := rfl

@[simp] theorem record_cfg (ev : Event) : (s.record ev).cfg = s.cfg := rfl
@[simp] theorem record_mode (ev : Event) : (s.record ev).mode = s.mode := rfl
@[simp] theorem record_e (ev : Event) : (s.record ev).e = s.e := rfl
@[simp] theorem record_dout (ev : Event) : (s.record ev).dout = s.dout := rfl
@[simp] theorem record_seq (ev : Event) : (s.record ev).seq = s.seq := rfl
@[simp] theorem record_opmem (ev : Event) : (s.record ev).opmem = s.opmem := rfl
@[simp] theorem record_script (ev : Event) : (s.record ev).script = s.script := rfl
@[simp] theorem record_statuses (ev : Event) : (s.record ev).statuses = s.statuses := rfl
@[simp] theorem record_events (ev : Event) : (s.record ev).events = s.events ++ [ev] := rfl
@[simp] theorem record_lcd (ev : Event) : (s.record ev).lcd = s.lcd := rfl
@[simp] theorem record_sync (ev : Event) : (s.record ev).sync = s.sync := rfl
@[simp] theorem record_fresh (ev : Event) : (s.record ev).fresh = s.fresh := rfl

@[simp] theorem setLcd_cfg (l : Lcd) : (s.setLcd l).cfg = s.cfg := rfl
@[simp] theorem setLcd_mode (l : Lcd) : (s.setLcd l).mode = s.mode := rfl
@[simp] theorem setLcd_e (l : Lcd) : (s.setLcd l).e = s.e := rfl
@[simp] theorem setLcd_dout (l : Lcd) : (s.setLcd l).dout = s.dout := rfl
@[simp] theorem setLcd_seq (l : Lcd) : (s.setLcd l).seq = s.seq := rfl
@[simp] theorem setLcd_opmem (l : Lcd) : (s.setLcd l).opmem = s.opmem := rfl
@[simp] theorem setLcd_script (l : Lcd) : (s.setLcd l).script = s.script := rfl
@[simp] theorem setLcd_statuses (l : Lcd) : (s.setLcd l).statuses = s.statuses := rfl
@[simp] theorem setLcd_events (l : Lcd) : (s.setLcd l).events = s.events := rfl
@[simp] theorem setLcd_lcd (l : Lcd) : (s.setLcd l).lcd = l := rfl
@[simp] theorem setLcd_sync (l : Lcd) : (s.setLcd l).sync = s.sync := rfl
@[simp] theorem setLcd_fresh (l : Lcd) : (s.setLcd l).fresh = s.fresh := rfl

@[simp] theorem setSync_cfg (y : LcdSync) : (s.setSync y).cfg = s.cfg := rfl
@[simp] theorem setSync_mode (y : LcdSync) : (s.setSync y).mode = s.mode := rfl
@[simp] theorem setSync_e (y : LcdSync) : (s.setSync y).e = s.e := rfl
@[simp] theorem setSync_dout (y : LcdSync) : (s.setSync y).dout = s.dout := rfl
@[simp] theorem setSync_seq (y : LcdSync) : (s.setSync y).seq = s.seq := rfl
@[simp] theorem setSync_opmem (y : LcdSync) : (s.setSync y).opmem = s.opmem := rfl
@[simp] theorem setSync_script (y : LcdSync) : (s.setSync y).script = s.script := rfl
@[simp] theorem setSync_statuses (y : LcdSync) : (s.setSync y).statuses = s.statuses := rfl
@[simp] theorem setSync_events (y : LcdSync) : (s.setSync y).events = s.events := rfl
@[simp] theorem setSync_lcd (y : LcdSync) : (s.setSync y).lcd = s.lcd := rfl
@[simp] theorem setSync_sync (y : LcdSync) : (s.setSync y).sync = y := rfl
@[simp] theorem setSync_fresh (y : LcdSync) : (s.setSync y).fresh = s.fresh := rfl

@[simp] theorem draw_cfg : (s.draw).cfg = s.cfg := rfl
@[simp] theorem draw_mode : (s.draw).mode = s.mode := rfl
@[simp] theorem draw_e : (s.draw).e = s.e := rfl
@[simp] theorem draw_dout : (s.draw).dout = s.dout := rfl
@[simp] theorem draw_seq : (s.draw).seq = s.seq := rfl
@[simp] theorem draw_opmem : (s.draw).opmem = s.opmem := rfl
@[simp] theorem draw_script : (s.draw).script = s.script := rfl
@[simp] theorem draw_statuses : (s.draw).statuses = s.statuses := rfl
@[simp] theorem draw_events : (s.draw).events = s.events := rfl
@[simp] theorem draw_lcd : (s.draw).lcd = s.lcd := rfl
@[simp] theorem draw_sync : (s.draw).sync = s.sync := rfl
@[simp] theorem draw_fresh : (s.draw).fresh = s.fresh + 1 := rfl

/-- Recording what the LCD's state already says changes nothing. -/
@[simp] theorem setSync_self : s.setSync s.sync = s := rfl

end Sys2Proof.Machine
end

