-- ==== Sys2Proof/Laws/Step.lean ====
section
/-! SUPPORT. What each shared operation, each instruction and one step can do, said once: the provers cite these instead of
unfolding the machine. -/

namespace Sys2Proof.Machine

theorem whenIdle_next {s t u : State} (h : whenIdle s t = .next u) : s.seq = .idle ∧ u = t := by
  unfold whenIdle at h
  split at h
  · rename_i hs; cases h; exact ⟨hs, rfl⟩
  · cases h

/-- An accepted command: the block was Idle and only SEQ changed. -/
theorem accept_next {tr : List Event} {s t : State} (h : accept tr s = .next t) :
    s.seq = .idle ∧ t = s.setSeq (.busy tr) := whenIdle_next h

/-- A rejected command: the block was Idle and only the status was returned. -/
theorem reject_next {st : Status} {s t : State} (h : reject st s = .next t) :
    s.seq = .idle ∧ t = s.respond st := whenIdle_next h

theorem accept_of_idle {s : State} (h : s.seq = .idle) (tr : List Event) :
    accept tr s = .next (s.setSeq (.busy tr)) := by simp [accept, whenIdle, h]

theorem reject_of_idle {s : State} (h : s.seq = .idle) (st : Status) :
    reject st s = .next (s.respond st) := by simp [reject, whenIdle, h]

/-- A checked command is accepted with the trace of its operand, or rejected with the status of the check. -/
theorem acceptChecked_next {α : Type} {c : Except Status α} {f : α → List Event} {s t : State}
    (h : acceptChecked c f s = .next t) :
    s.seq = .idle ∧ ((∃ x, c = .ok x ∧ t = s.setSeq (.busy (f x))) ∨ (∃ st, c = .error st ∧ t = s.respond st)) := by
  cases c with
  | ok x => exact ⟨(accept_next h).1, .inl ⟨x, rfl, (accept_next h).2⟩⟩
  | error st => exact ⟨(reject_next h).1, .inr ⟨st, rfl, (reject_next h).2⟩⟩

/-- The string check raises INVALID_ARGUMENT and nothing else (R90, R111). -/
theorem readString_error {s : State} {a : Nat} {st : Status} (h : readString s a = .error st) :
    st = .invalidArgument := by
  unfold readString at h
  split at h
  · exact (Except.error.inj h).symm
  · split at h
    · cases h
    · exact (Except.error.inj h).symm

/-- The glyph set check raises INVALID_ARGUMENT and nothing else (R101, R111). -/
theorem readGlyphSet_error {s : State} {n a : Nat} {st : Status} (h : readGlyphSet s n a = .error st) :
    st = .invalidArgument := by
  unfold readGlyphSet at h
  repeat' split at h
  all_goals cases h
  all_goals rfl

theorem decodeIf_command {z : Bool} {i j : Instr} (h : decodeIf z i = .command j) : z = true ∧ j = i := by
  unfold decodeIf at h
  split at h
  · rename_i hz; exact ⟨hz, (Decoded.command.inj h).symm⟩
  · cases h

/-- The command decoder answers commands alone. -/
theorem decodeCommand_isCommand {w : CommandWord} {i : Instr} (h : decodeCommand w = .command i) :
    isCommand i = true := by
  unfold decodeCommand at h
  repeat' split at h
  all_goals first | (rw [(decodeIf_command h).2]; rfl) | cases h

/-- The LCD's decoder answers LCD instructions alone. -/
theorem decodeLcdNibbles_not_command {h l : Nibble} {i : Instr} (hd : decodeLcdNibbles h l = some i) :
    isCommand i = false := by
  unfold decodeLcdNibbles at hd
  repeat' split at hd
  all_goals first | cases hd; rfl | cases hd

/-- Everything a command's meaning can do: the block was Idle; it is Busy with a trace and `sync` is what the command makes
it, or a status other than OK was returned; nothing else changed. -/
theorem exec_command_next {i : Instr} {s t : State} (hi : isCommand i = true) (h : exec i s = .next t) :
    s.seq = .idle ∧
      ((∃ tr, t = (s.setSync (syncAfter i s.sync)).setSeq (.busy tr)) ∨ t = s.respond .invalidArgument) := by
  cases i
  all_goals try cases hi
  case init => exact ⟨(accept_next h).1, .inl ⟨_, (accept_next h).2⟩⟩
  case wins => exact ⟨(accept_next h).1, .inl ⟨_, (accept_next h).2⟩⟩
  case wdat => exact ⟨(accept_next h).1, .inl ⟨_, (accept_next h).2⟩⟩
  case clrh => exact ⟨(accept_next h).1, .inl ⟨_, (accept_next h).2⟩⟩
  case line2 => exact ⟨(accept_next h).1, .inl ⟨_, (accept_next h).2⟩⟩
  case wstr a =>
    obtain ⟨hs, ⟨x, -, ht⟩ | ⟨st, he, ht⟩⟩ := acceptChecked_next h
    · exact ⟨hs, .inl ⟨_, ht⟩⟩
    · exact ⟨hs, .inr (readString_error he ▸ ht)⟩
  case ldgly n a =>
    obtain ⟨hs, ⟨x, -, ht⟩ | ⟨st, he, ht⟩⟩ := acceptChecked_next h
    · exact ⟨hs, .inl ⟨_, ht⟩⟩
    · exact ⟨hs, .inr (readGlyphSet_error he ▸ ht)⟩

/-- What WINS sends cannot bring the LCD back (R125). -/
theorem syncAfterWins_inStep {code : Byte} {y : LcdSync} (h : syncAfterWins code y = .inStep) : y = .inStep := by
  cases y <;> first | rfl | cases h

/-- INIT alone brings the LCD back (R125). -/
theorem syncAfter_inStep {i : Instr} {y : LcdSync} (h : syncAfter i y = .inStep) : i = .init ∨ y = .inStep := by
  cases i <;> first | exact .inl rfl | exact .inr h | exact .inr (syncAfterWins_inStep h)

/-- Everything an LCD instruction's meaning can do: it answers a next state in which the LCD alone changed. -/
theorem exec_lcd_next {i : Instr} (hi : isCommand i = false) (s : State) :
    ∃ l : Lcd, exec i s = .next (s.setLcd l) ∧ l.busy = true := by
  cases i <;> first | exact ⟨_, rfl, rfl⟩ | cases hi

/-- Everything one step can do. -/
theorem step_cases {s t : State} (h : step s = .next t) :
    s.cfg.legal = true ∧
      ((∃ ev rest, s.seq = .busy (ev :: rest) ∧ t = perform ev (s.setSeq (.busy rest))) ∨
       (s.seq = .busy [] ∧ t = complete s) ∨
       (s.seq = .idle ∧ s.script = [] ∧ t = s) ∨
       (s.seq = .idle ∧ ∃ w ms, s.script = .issue w :: ms ∧ issueWord w (s.setScript ms) = .next t) ∨
       (s.seq = .idle ∧ ∃ a b ms, s.script = .store a b :: ms ∧ a < s.cfg.opmemSize ∧
          t = (s.setScript ms).setOpmem (writeCell s.opmem a b)) ∨
       (s.seq = .idle ∧ ∃ ms, s.script = .powerCycle :: ms ∧ t = powerOnReset (s.setScript ms))) := by
  unfold step at h
  split at h
  · rename_i hl
    refine ⟨hl, ?_⟩
    unfold advance at h
    split at h
    · rename_i ev rest hs; cases h; exact .inl ⟨ev, rest, hs, rfl⟩
    · rename_i hs; cases h; exact .inr (.inl ⟨hs, rfl⟩)
    · rename_i hs
      split at h
      · rename_i m ms hm
        cases m with
        | issue w => exact .inr (.inr (.inr (.inl ⟨hs, w, ms, hm, h⟩)))
        | store a b =>
          simp only [hostMove, storeOperand] at h
          split at h
          · rename_i ha; cases h; exact .inr (.inr (.inr (.inr (.inl ⟨hs, a, b, ms, hm, ha, rfl⟩))))
          · cases h
        | powerCycle => cases h; exact .inr (.inr (.inr (.inr (.inr ⟨hs, ms, hm, rfl⟩))))
      · rename_i hm; cases h; exact .inr (.inr (.inl ⟨hs, hm, rfl⟩))
  · cases h

/-- Everything issuing a word can do: the word is a command and the block goes Busy with a trace, or a status other than OK
is returned. -/
theorem issueWord_next {w : CommandWord} {s t : State} (h : issueWord w s = .next t) :
    s.seq = .idle ∧
      ((∃ i tr, decodeCommand w = .command i ∧ t = (s.setSync (syncAfter i s.sync)).setSeq (.busy tr)) ∨
        t = s.respond .invalidArgument ∨ t = s.respond .illegalCommand) := by
  unfold issueWord at h
  split at h
  · rename_i i hd
    obtain ⟨hs, ⟨tr, ht⟩ | ht⟩ := exec_command_next (decodeCommand_isCommand hd) h
    · exact ⟨hs, .inl ⟨i, tr, hd, ht⟩⟩
    · exact ⟨hs, .inr (.inl ht)⟩
  · exact ⟨(reject_next h).1, .inr (.inr (reject_next h).2)⟩

/-! ### Performing one event -/

variable (ev : Event) (s : State)

@[simp] theorem perform_cfg : (perform ev s).cfg = s.cfg := by cases ev <;> rfl
@[simp] theorem perform_seq : (perform ev s).seq = s.seq := by cases ev <;> rfl
@[simp] theorem perform_opmem : (perform ev s).opmem = s.opmem := by cases ev <;> rfl
@[simp] theorem perform_script : (perform ev s).script = s.script := by cases ev <;> rfl
@[simp] theorem perform_statuses : (perform ev s).statuses = s.statuses := by cases ev <;> rfl
@[simp] theorem perform_sync : (perform ev s).sync = s.sync := by cases ev <;> rfl
@[simp] theorem perform_events : (perform ev s).events = s.events ++ [ev] := by cases ev <;> rfl

theorem perform_setMode (m : Mode) : perform (.setMode m) s = (s.setMode m).record (.setMode m) := rfl
theorem perform_setData (n : Nibble) : perform (.setData n) s = (s.setDout n).record (.setData n) := rfl
theorem perform_strobe : perform .strobe s =
    (((s.setE 1).draw.setLcd (lcdAfterStrobe (s.setE 1).draw)).setE 0).record .strobe := rfl
theorem perform_wait (n : Nat) : perform (.wait n) s =
    (s.setLcd { s.lcd with busy := false }).record (.wait n) := rfl

/-- MODE after an event: what a SetMode wrote, else as before. -/
theorem perform_mode : (perform ev s).mode = modeAfter s.mode [ev] := by cases ev <;> rfl
/-- DOUT after an event: what a SetData wrote, else as before. -/
theorem perform_dout : (perform ev s).dout = doutAfter s.dout [ev] := by cases ev <;> rfl
/-- E is low after an event if it was low before. -/
theorem perform_e (h : s.e = 0) : (perform ev s).e = 0 := by cases ev <;> first | exact h | rfl

/-! ### Running -/

theorem runSteps_zero (s : State) : runSteps 0 s = .next s := rfl

theorem runSteps_succ (k : Nat) (s : State) : runSteps (k + 1) s =
    match step s with
    | .next t => runSteps k t
    | .fault r => .fault r
    | .refused r => .refused r := by
  cases h : step s <;> simp [runSteps, Host.Core.run, core, h]

/-- One step to `t`, then `k` steps. -/
theorem runSteps_of_step {s t : State} (h : step s = .next t) (k : Nat) : runSteps (k + 1) s = runSteps k t := by
  rw [runSteps_succ, h]

/-- `j` steps to `t`, then `k` steps. -/
theorem runSteps_add {j : Nat} {s t : State} (h : runSteps j s = .next t) (k : Nat) :
    runSteps (j + k) s = runSteps k t := by
  induction j generalizing s with
  | zero =>
    rw [runSteps_zero] at h
    cases h; simp
  | succ j ih =>
    rw [runSteps_succ] at h
    rw [Nat.add_right_comm, runSteps_succ]
    cases hs : step s with
    | next u => rw [hs] at h; exact ih h
    | fault r => rw [hs] at h; cases h
    | refused r => rw [hs] at h; cases h

/-- The next event of a running trace. -/
theorem step_of_running {s : State} {ev : Event} {rest : List Event} (h : Running s (ev :: rest)) :
    step s = .next (perform ev (s.setSeq (.busy rest))) := by
  simp [step, advance, h.1, h.2]

end Sys2Proof.Machine
end

