-- ==== Sys2Proof/Tests/Slice0.lean ====
section
/-! SUPPORT. Tests. Expected results are from spec/95_test_vectors.md, the worked examples of the rules, or words written
out bit by bit from the encodings; the source of each is named. The second part shows, for each statement with hypotheses,
a concrete state and operands that meet them. -/

namespace Sys2Proof.Tests

open Sys2Proof Sys2Proof.Machine

/-! ### Helpers -/

/-- `p` holds of the next state. -/
def got (o : Host.Outcome State Fault Refusal) (p : State → Bool) : Bool :=
  match o with
  | .next t => p t
  | .fault _ => false
  | .refused _ => false

/-- An LCD in 4-bit mode, expecting a high nibble, incrementing, with every cell known. -/
def lcd0 : Lcd where
  iface := .fourBit none
  busy := false
  ir := 0x00
  dr := 0x00
  ac := .ddram 0x00
  ddram := Vector.replicate 128 0x2D
  cgram := Vector.replicate 64 0x00
  increment := true
  shiftOnWrite := false
  displayOn := false
  cursorOn := false
  blinkOn := false
  twoLines := false
  font5x10 := false
  shift := 0

/-- The reset state with that LCD, INIT issued. -/
def s0 : State := { State.reset with lcd := lcd0, sync := .inStep }

/-- A nibble transfer as 95_test_vectors.md writes it in full: mode, nibble, wait. -/
def x (m : Mode) (n : Nibble) (d : Nat) : List Event := [.setMode m, .setData n, .strobe, .wait d]

/-- Instruction mode. -/
abbrev I : Mode := .instruction
/-- Data mode. -/
abbrev D : Mode := .data

/-- The state is Busy with exactly `tr`. -/
def busyWith (tr : List Event) (t : State) : Bool := decide (t.seq = .busy tr)

/-- Only the status `st` was returned and the block is Idle. -/
def rejectedWith (st : Status) (t : State) : Bool :=
  decide (t.seq = .idle) && decide (t.statuses = [st]) && decide (t.events = [])

/-! ### Ill-formed terms are refused -/

theorem test_default_config_legal : Config.default.legal = true := by decide
-- 95_test_vectors.md 2.3: the illegal configurations, one for each check.
theorem test_illegal_clear_not_longer : ({ Config.default with tClear := 5 } : Config).legal = false := by decide
theorem test_illegal_settle_zero : ({ Config.default with tSettle := 0 } : Config).legal = false := by decide
theorem test_illegal_power_on_zero : ({ Config.default with tPowerOn := 0 } : Config).legal = false := by decide
theorem test_illegal_opmem_empty : ({ Config.default with opmemSize := 0 } : Config).legal = false := by decide
theorem test_illegal_opmem_large : ({ Config.default with opmemSize := 65537 } : Config).legal = false := by decide
theorem test_illegal_entry_low : ({ Config.default with initEntryMode := 0x03 } : Config).legal = false := by decide
theorem test_illegal_entry_high : ({ Config.default with initEntryMode := 0x0F } : Config).legal = false := by decide
theorem test_illegal_display_low :
    ({ Config.default with initDisplayControl := 0x07 } : Config).legal = false := by decide
theorem test_illegal_display_high :
    ({ Config.default with initDisplayControl := 0x10 } : Config).legal = false := by decide
theorem test_illegal_line2 : ({ Config.default with line2Cmd := 0x40 } : Config).legal = false := by decide
-- 30_encoding.md R56: "It refuses a value outside its field's range".
theorem test_asm_byte_out_of_range : (AsmLine.wins 256).wf = false ∧ (AsmLine.putc 256).wf = false := by decide
theorem test_asm_addr_out_of_range :
    (AsmLine.wstr 65536).wf = false ∧ (AsmLine.ldgly 0 65536).wf = false := by decide
theorem test_asm_count_out_of_range : (AsmLine.ldgly 16 0).wf = false := by decide
theorem test_asm_setdd_out_of_range : (AsmLine.setdd 0x80).wf = false ∧ (AsmLine.setcg 0x40).wf = false := by decide
theorem test_memory_not_rising : Memory.wf [(5, 0x41), (5, 0x42)] = false := by decide
theorem test_memory_lists_default : Memory.wf [(5, 0x00)] = false := by decide
theorem test_memory_outside : Memory.within 256 [(256, 0x41)] = false := by decide

/-! ### Decoding: words written out bit by bit -/

theorem test_decode_init : decodeCommand 0b00010000000000000000000000000000 = .command .init := by decide
theorem test_decode_wins : decodeCommand 0b00100000000000000000000000101000 = .command (.wins 0x28) := by decide
theorem test_decode_wdat : decodeCommand 0b00110000000000000000000001001000 = .command (.wdat 0x48) := by decide
theorem test_decode_wstr : decodeCommand 0b01000000000000010000000000000000 = .command (.wstr 0x0100) := by decide
theorem test_decode_clrh : decodeCommand 0b01010000000000000000000000000000 = .command .clrh := by decide
theorem test_decode_line2 : decodeCommand 0b01100000000000000000000000000000 = .command .line2 := by decide
theorem test_decode_ldgly :
    decodeCommand 0b01110001000000100000000000000000 = .command (.ldgly 1 0x0200) := by decide
theorem test_decode_clearDisplay : decodeLcdByte 0b00000001 = some .clearDisplay := by decide
theorem test_decode_returnHome : decodeLcdByte 0b00000011 = some (.returnHome 1) := by decide
theorem test_decode_entryModeSet : decodeLcdByte 0b00000110 = some (.entryModeSet true false) := by decide
theorem test_decode_displayControl : decodeLcdByte 0b00001100 = some (.displayControl true false false) := by decide
theorem test_decode_cursorDisplayShift :
    decodeLcdByte 0b00010110 = some (.cursorDisplayShift false true 2) := by decide
theorem test_decode_functionSet : decodeLcdByte 0b00101000 = some (.functionSet false true false 0) := by decide
theorem test_decode_setCgramAddr : decodeLcdByte 0b01001000 = some (.setCgramAddr 0x08) := by decide
theorem test_decode_setDdramAddr : decodeLcdByte 0b11000000 = some (.setDdramAddr 0x40) := by decide
theorem test_decode_lcd_zero : decodeLcdByte 0b00000000 = none := by decide
-- 95_test_vectors.md 2.1: illegal words.
theorem test_decode_reserved : decodeCommand 0x00000000 = .illegal .reservedOp ∧
    decodeCommand 0x80000000 = .illegal .reservedOp ∧ decodeCommand 0xFFFFFFFF = .illegal .reservedOp := by decide
theorem test_decode_nonzero : decodeCommand 0x11000000 = .illegal .nonzeroField ∧
    decodeCommand 0x20000100 = .illegal .nonzeroField ∧ decodeCommand 0x41000000 = .illegal .nonzeroField ∧
    decodeCommand 0x79000001 = .illegal .nonzeroField := by decide
-- The encoder, against the worked examples' words (R68, R97) and R75.
theorem test_encode : encode (.wins 0x28) = .word 0x20000028 ∧ encode (.ldgly 1 0x0200) = .word 0x71020000 ∧
    encode (.functionSet false true false 0) = .byte 0x28 ∧ encode (.setCgramAddr 0x38) = .byte 0x78 := by decide
theorem test_decodeTableWord : decodeTableWord 32 0x30000041 = some (.wdat 0x41) ∧
    decodeTableWord 8 0x0F = some (.displayControl true true true) ∧ decodeTableWord 16 0x28 = none := by decide

/-! ### Commands -/

-- 95_test_vectors.md X12: the full trace of INIT.
theorem test_init_trace : got (exec .init s0) (busyWith ([.setMode I, .wait 20] ++ x I 3 5 ++ x I 3 5 ++ x I 3 5 ++
    x I 2 5 ++ x I 2 5 ++ x I 8 5 ++ x I 0 5 ++ x I 6 5 ++ x I 0 5 ++ x I 15 5 ++ x I 0 5 ++ x I 1 10 ++ x I 0 5 ++
    x I 2 5 ++ [.setMode D])) = true := by decide
-- 2.3: a non-default configuration.
def slowConfig : Config :=
  { Config.default with
    tPowerOn := 50
    tSettle := 2
    tClear := 3
    initEntryMode := 0x04
    initDisplayControl := 0x0C }
theorem test_init_total_wait : totalWait (initTrace slowConfig) = 79 := by decide
-- R68, worked example.
theorem test_wins_function_set : got (exec (.wins 0x28) s0) (busyWith (x I 2 5 ++ x I 8 5)) = true := by decide
-- 2.2: WINS 0x01 has the long wait, after its low nibble.
theorem test_wins_clear : got (exec (.wins 0x01) s0) (busyWith (x I 0 5 ++ x I 1 10)) = true := by decide
-- X11: high nibble first.
theorem test_wdat_nibble_order : got (exec (.wdat 0xAB) s0) (busyWith (x D 0xA 5 ++ x D 0xB 5)) = true := by decide
-- 2.2: a data byte 0x01 has the short wait.
theorem test_wdat_one : got (exec (.wdat 0x01) s0) (busyWith (x D 0 5 ++ x D 1 5)) = true := by decide
-- X3: "HI" at 0x0010.
theorem test_wstr_hi : got (exec (.wstr 0x0010) { s0 with opmem := [(0x10, 0x48), (0x11, 0x49)] })
    (busyWith (x D 4 5 ++ x D 8 5 ++ x D 4 5 ++ x D 9 5)) = true := by decide
-- 2.4: five bytes of memory, no terminator.
theorem test_wstr_unterminated : got (exec (.wstr 0x0000)
    { s0 with cfg := { Config.default with opmemSize := 5 },
              opmem := [(0, 0x41), (1, 0x41), (2, 0x41), (3, 0x41), (4, 0x41)] })
    (rejectedWith .invalidArgument) = true := by decide
-- 2.5: CLRH.
theorem test_clrh : got (exec .clrh s0) (busyWith (x I 0 5 ++ x I 1 10 ++ x I 0 5 ++ x I 2 5)) = true := by decide
-- 2.5: LINE2 with LINE2_CMD = 0x94.
theorem test_line2_configured : got (exec .line2 { s0 with cfg := { Config.default with line2Cmd := 0x94 } })
    (busyWith (x I 9 5 ++ x I 4 5)) = true := by decide
-- 2.6: a row 0x20 is rejected; the byte after a one-glyph set is not looked at.
theorem test_ldgly_row_checked : got (exec (.ldgly 1 0x0040) { s0 with opmem := [(0x47, 0x20)] })
    (rejectedWith .invalidArgument) = true := by decide
theorem test_ldgly_one_glyph : got (exec (.ldgly 1 0x0040) { s0 with opmem := [(0x40, 0x1F), (0x48, 0xFF)] })
    (busyWith (x I 4 5 ++ x I 0 5 ++ x D 1 5 ++ x D 15 5 ++ x D 0 5 ++ x D 0 5 ++ x D 0 5 ++ x D 0 5 ++ x D 0 5 ++
      x D 0 5 ++ x D 0 5 ++ x D 0 5 ++ x D 0 5 ++ x D 0 5 ++ x D 0 5 ++ x D 0 5 ++ x D 0 5 ++ x D 0 5 ++
      x I 8 5 ++ x I 0 5)) = true := by decide

/-! ### The block's steps -/

-- 95_test_vectors.md 2.7: from MODE = Data, DOUT = 0x9, an illegal word changes nothing but the status.
theorem test_step_illegal_word :
    got (step { s0 with mode := .data, dout := 0x9, script := [.issue 0x79000001] })
      (fun t => rejectedWith .illegalCommand t && decide (t.mode = .data) && decide (t.dout = 0x9)) = true := by
  decide
theorem test_step_completes : got (step { s0 with seq := .busy [] })
    (fun t => decide (t.seq = .idle) && decide (t.statuses = [.ok])) = true := by decide
-- R60: E is 0 after a strobe, and the LCD has taken in the nibble.
theorem test_step_strobe : got (step { s0 with dout := 0x4, seq := .busy [.strobe] })
    (fun t => decide (t.e = 0) && decide (t.lcd.iface = .fourBit (some 0x4))) = true := by decide
theorem test_step_fault : (match step { s0 with script := [.store 256 0x41] } with
    | .fault (.operandAddressAbsent a) => a == 256
    | _ => false) = true := by decide
theorem test_busy_command_refused : (match exec .init { s0 with seq := .busy [] } with
    | .refused .commandWhileBusy => true
    | _ => false) = true := by decide
theorem test_withFetchWord_command : got (step (State.reset.withFetchWord 32 0x30000041))
    (busyWith (x D 4 5 ++ x D 1 5)) = true := by decide
theorem test_withFetchWord_lcd : got (step (State.reset.withFetchWord 8 0xC0))
    (fun t => decide (t.lcd.ac = .ddram 0x40)) = true := by decide

/-! ### The LCD's instructions (41_lcd_instruction_codes.md R73, R74) -/

theorem test_clearDisplay : got (exec .clearDisplay { s0 with lcd := { lcd0 with ac := .cgram 5, increment := false } })
    (fun t => decide (t.lcd.ddram[0x7F] = 0x20) && decide (t.lcd.ac = .ddram 0) && t.lcd.increment) = true := by decide
theorem test_returnHome : got (exec (.returnHome 1) { s0 with lcd := { lcd0 with ac := .ddram 5, shift := -2 } })
    (fun t => decide (t.lcd.ddram[0] = 0x2D) && decide (t.lcd.ac = .ddram 0) && decide (t.lcd.shift = 0)) = true := by
  decide
theorem test_entryModeSet : got (exec (.entryModeSet false true) s0)
    (fun t => !t.lcd.increment && t.lcd.shiftOnWrite) = true := by decide
theorem test_displayControl : got (exec (.displayControl true false true) s0)
    (fun t => t.lcd.displayOn && !t.lcd.cursorOn && t.lcd.blinkOn) = true := by decide
theorem test_cursorShift : got (exec (.cursorDisplayShift false false 0) { s0 with lcd := { lcd0 with ac := .ddram 5 } })
    (fun t => decide (t.lcd.ac = .ddram 4) && decide (t.lcd.shift = 0)) = true := by decide
theorem test_displayShift : got (exec (.cursorDisplayShift true true 0) s0)
    (fun t => decide (t.lcd.ac = .ddram 0) && decide (t.lcd.shift = 1)) = true := by decide
theorem test_functionSet : got (exec (.functionSet true false true 0) s0)
    (fun t => decide (t.lcd.iface = .eightBit) && !t.lcd.twoLines && t.lcd.font5x10) = true := by decide
theorem test_setCgramAddr : got (exec (.setCgramAddr 0x3F) s0) (fun t => decide (t.lcd.ac = .cgram 0x3F)) = true := by
  decide
theorem test_setDdramAddr : got (exec (.setDdramAddr 0x40) s0) (fun t => decide (t.lcd.ac = .ddram 0x40)) = true := by
  decide
-- P5, command 4: a data byte after Set-CGRAM-address 0x08 goes to row 0 of slot 1.
theorem test_data_to_cgram : got (step { s0 with
      mode := .data, dout := 0xF, seq := .busy [.strobe],
      lcd := { lcd0 with iface := .fourBit (some 0x1), ac := .cgram 0x08 } })
    (fun t => decide (t.lcd.cgram[8] = 0x1F) && decide (t.lcd.ac = .cgram 0x09)) = true := by decide

/-! ### The assembler (30_encoding.md R56, R57) -/

theorem test_parse_ldgly : parseLine "LDGLY 2, 0x0080 ; two glyphs".toList = some (some (.ldgly 2 0x80)) := by decide
-- The model's choice, notes/assumptions/40.md.
theorem test_parse_quoted : parseLine "WDAT ';'".toList = some (some (.wdat 0x3B)) := by decide
-- R56: a quoted character means its ASCII code; one without an ASCII code is refused (notes/assumptions/34.md).
theorem test_parse_not_ascii : parseLine ("WDAT '".toList ++ [Char.ofNat 0xE9, '\'']) = none := by decide
-- 95_test_vectors.md P5: SETCG 0x08, RETDD, CLEAR.
theorem test_assemble_pseudo : assemble (.setcg 0x08) = some 0x20000048 ∧ assemble .retdd = some 0x20000080 ∧
    assemble .clear = some 0x20000001 := by decide

/-! ### Each statement's hypotheses are met -/

/-- Idle, with one move for the host. -/
def idleWith (m : HostMove) : State := { s0 with script := [m] }

/-- Busy with `tr`. -/
def runningWith (tr : List Event) : State := { s0 with seq := .busy tr }

theorem meets_ReservedOpcodeRejected :
    (NextMove (idleWith (.issue 0x00000000)) (.issue 0x00000000) [] ∧ opField 0x00000000 = 0x0) ∧
    (NextMove (idleWith (.issue 0x80000000)) (.issue 0x80000000) [] ∧ 8 ≤ (opField 0x80000000).toNat) ∧
    (NextMove (idleWith (.issue 0xF0000000)) (.issue 0xF0000000) [] ∧ 8 ≤ (opField 0xF0000000).toNat) := by decide
theorem meets_NonzeroUnusedFieldRejected :
    (NextMove (idleWith (.issue 0x10000001)) (.issue 0x10000001) [] ∧
      opField 0x10000001 = 0x1 ∧ immField 0x10000001 ≠ 0) ∧
    (NextMove (idleWith (.issue 0x30010041)) (.issue 0x30010041) [] ∧
      opField 0x30010041 = 0x3 ∧ addrField 0x30010041 ≠ 0) ∧
    (NextMove (idleWith (.issue 0x41000000)) (.issue 0x41000000) [] ∧
      opField 0x41000000 = 0x4 ∧ cntField 0x41000000 ≠ 0) ∧
    (NextMove (idleWith (.issue 0x71000080)) (.issue 0x71000080) [] ∧
      opField 0x71000080 = 0x7 ∧ immField 0x71000080 ≠ 0) := by decide
theorem meets_IllegalConfigurationRefused :
    s0.cfg.legal = true ∧ ({ s0 with cfg := { Config.default with tClear := 5 } } : State).cfg.legal = false := by decide
theorem meets_PowerCycleResetsTheBlock : NextMove (idleWith .powerCycle) .powerCycle [] := by decide
theorem meets_HostStoreThenRead :
    (NextMove (idleWith (.store 255 0x41)) (.store 255 0x41) [] ∧ Memory.wf (idleWith (.store 255 0x41)).opmem = true ∧
      255 < s0.cfg.opmemSize) ∧
    (NextMove (idleWith (.store 256 0x41)) (.store 256 0x41) [] ∧ Memory.wf (idleWith (.store 256 0x41)).opmem = true ∧
      s0.cfg.opmemSize ≤ 256) := by decide
theorem meets_BlockNeverWritesOperandMemory :
    got (step (idleWith (.store 7 0x41)))
      (fun t => decide (readCell t.opmem 7 ≠ readCell (idleWith (.store 7 0x41)).opmem 7)) = true := by decide
theorem meets_IdleBlockWaits : s0.cfg.legal = true ∧ s0.seq = .idle ∧ s0.script = [] := by decide
theorem meets_SetModeEvent : Running (runningWith [.setMode .instruction]) [.setMode .instruction] ∧
    Running (runningWith [.setMode .data]) [.setMode .data] := by decide
theorem meets_SetDataEvent : Running (runningWith [.setData 0xF]) [.setData 0xF] := by decide
theorem meets_StrobeEvent :
    (Running (runningWith [.strobe]) [.strobe] ∧ (runningWith [.strobe]).sync = .inStep ∧
      (runningWith [.strobe]).lcd.busy = false ∧ (runningWith [.strobe]).lcd.iface = .fourBit none) ∧
    (Running { runningWith [.strobe] with mode := .data, lcd := { lcd0 with iface := .fourBit (some 0x4) } } [.strobe] ∧
      lcd0.busy = false) := by decide
theorem meets_WaitEvent : Running (runningWith [.wait 5]) [.wait 5] := by decide
theorem meets_ByteWriteRuns :
    Running (runningWith (byteWrite Config.default I 0x01 ++ [])) (byteWrite s0.cfg I 0x01 ++ []) := by decide
theorem meets_SettleWaits : (I = .instruction ∧ clearDisplayByte = 0x01) ∧ ¬ (D = .instruction ∧ clearDisplayByte = 0x01) ∧
    Config.default.legal = true := by decide
theorem meets_ByteWritesAreNotMerged :
    Running (runningWith (byteWrite Config.default D 0x41 ++ (byteWrite Config.default D 0x41 ++ [])))
      (byteWrite s0.cfg D 0x41 ++ (byteWrite s0.cfg D 0x41 ++ [])) ∧
    Running (runningWith (byteWrite Config.default I 0x01 ++ (byteWrite Config.default D 0xFF ++ [])))
      (byteWrite s0.cfg I 0x01 ++ (byteWrite s0.cfg D 0xFF ++ [])) := by decide
theorem meets_UncheckedCommandsAccepted : s0.seq = .idle := by decide
-- R130(a), 93 U12 and R68: what WINS of the bytes where the clauses meet leaves known of the LCD.
theorem test_wins_sync : [0x00, 0x01, 0x2F, 0x30, 0x3F, 0x40].map (fun code => syncAfterWins code .inStep) =
    [.unspecified, .inStep, .inStep, .eightBit, .eightBit, .inStep] := by decide

/-- "HI" with its terminator in the last byte of memory. -/
def textState : State := { s0 with opmem := [(0xFD, 0x48), (0xFE, 0x49)] }
theorem meets_WstrSendsTheString : textState.seq = .idle ∧ (0x00FD#16).toNat + 2 < textState.cfg.opmemSize ∧
    (∀ i, i < 2 → readCell textState.opmem ((0x00FD#16).toNat + i) ≠ 0x00) ∧
    readCell textState.opmem ((0x00FD#16).toNat + 2) = 0x00 := by decide
/-- The last byte of memory is no terminator. -/
def openState : State := { s0 with opmem := [(0xFF, 0x42)] }
theorem meets_WstrRejectsUnterminated :
    (openState.seq = .idle ∧ openState.cfg.opmemSize ≤ (0x0100#16).toNat) ∧
    (∀ j, (0x00FF#16).toNat ≤ j → j < openState.cfg.opmemSize → readCell openState.opmem j ≠ 0x00) := by
  refine ⟨by decide, fun j h1 h2 => ?_⟩
  have h1 : 255 ≤ j := h1
  have h2 : j < 256 := h2
  obtain rfl : j = 255 := by omega
  decide

/-- One glyph with the widest legal row in its last place, at the end of memory. -/
def glyphState : State := { s0 with opmem := [(0xFF, 0x1F)] }
theorem meets_LdglySendsTheGlyphs : glyphState.seq = .idle ∧ 1 ≤ (1#4).toNat ∧ (1#4).toNat ≤ 8 ∧
    (0x00F8#16).toNat + 8 * (1#4).toNat ≤ glyphState.cfg.opmemSize ∧
    (∀ i, i < 8 * (1#4).toNat → (readCell glyphState.opmem ((0x00F8#16).toNat + i)).toNat ≤ 0x1F) := by decide
theorem meets_LdglySendsEightGlyphs : s0.seq = .idle ∧ 1 ≤ (8#4).toNat ∧ (8#4).toNat ≤ 8 ∧
    (0x00C0#16).toNat + 8 * (8#4).toNat ≤ s0.cfg.opmemSize ∧
    (∀ i, i < 8 * (8#4).toNat → (readCell s0.opmem ((0x00C0#16).toNat + i)).toNat ≤ 0x1F) := by decide
theorem meets_LdglyRejectsMoreThanEight : s0.seq = .idle ∧ 8 < (9#4).toNat := by decide
theorem meets_LdglyRejectsSetOutsideMemory : s0.seq = .idle ∧ 1 ≤ (8#4).toNat ∧ (8#4).toNat ≤ 8 ∧
    s0.cfg.opmemSize < (0x00C1#16).toNat + 8 * (8#4).toNat := by decide
/-- A row just too wide. -/
def wideState : State := { s0 with opmem := [(0x0F, 0x20)] }
theorem meets_LdglyRejectsWideRow : wideState.seq = .idle ∧ 1 ≤ (2#4).toNat ∧ (2#4).toNat ≤ 8 ∧
    (0x0000#16).toNat + 8 * (2#4).toNat ≤ wideState.cfg.opmemSize ∧ 15 < 8 * (2#4).toNat ∧
    0x1F < (readCell wideState.opmem ((0x0000#16).toNat + 15)).toNat := by decide
theorem meets_LdglyEmptySet : NextMove (idleWith (.issue (commandWord 0x7 0 0xFFFF 0)))
    (.issue (commandWord 0x7 0 0xFFFF 0)) [] := by decide
theorem meets_TraceCounts : Config.default.legal = true ∧ (0x00 : Byte) ≠ 0x01 ∧ 1 ≤ 8 ∧ 8 ≤ 8 ∧
    (List.replicate 64 (0x1F : Byte)).length = 8 * 8 := by decide
theorem meets_InitFsmEmitsInitTrace : s0.seq = .idle ∧ s0.cfg = Config.default := by decide
theorem meets_GlyphFsmEmitsLdglyTrace : glyphState.seq = .idle ∧ 1 ≤ (1#4).toNat ∧ (1#4).toNat ≤ 8 ∧
    (0x00F8#16).toNat + 8 * (1#4).toNat ≤ glyphState.cfg.opmemSize ∧
    (∀ i, i < 8 * (1#4).toNat → (readCell glyphState.opmem ((0x00F8#16).toNat + i)).toNat ≤ 0x1F) := by decide
theorem meets_ClearThenHomeIsClrh : s0.seq = .idle := by decide
theorem meets_StartedTraceRunsToOk : Running (runningWith []) [] ∧
    Running (runningWith [.strobe, .setMode .data]) [.strobe, .setMode .data] := by decide
theorem meets_EachCommandEnds_unchecked :
    (NextMove (idleWith (.issue 0x10000000)) (.issue 0x10000000) [] ∧ encode .init = .word 0x10000000) ∧
    (NextMove (idleWith (.issue 0x20000001)) (.issue 0x20000001) [] ∧ encode (.wins 0x01) = .word 0x20000001) ∧
    (NextMove (idleWith (.issue 0x30000041)) (.issue 0x30000041) [] ∧ encode (.wdat 0x41) = .word 0x30000041) ∧
    (NextMove (idleWith (.issue 0x50000000)) (.issue 0x50000000) [] ∧ encode .clrh = .word 0x50000000) ∧
    (NextMove (idleWith (.issue 0x60000000)) (.issue 0x60000000) [] ∧ encode .line2 = .word 0x60000000) ∧
    (NextMove (idleWith (.issue 0x70FFFF00)) (.issue 0x70FFFF00) [] ∧ encode (.ldgly 0 0xFFFF) = .word 0x70FFFF00) := by
  decide
theorem meets_EachCommandEnds_wstr :
    NextMove { textState with script := [.issue 0x4000FD00] } (.issue 0x4000FD00) [] ∧
    encode (.wstr 0x00FD) = .word 0x4000FD00 ∧
    readString textState (0x00FD#16).toNat = .ok ([0x48] ++ [0x49]) ∧
    readString textState (0x00FF#16).toNat = .ok [] ∧
    readString textState (0x0100#16).toNat = .error .invalidArgument :=
  ⟨by decide, by decide, rfl, rfl, rfl⟩
theorem meets_EachCommandEnds_ldgly :
    NextMove { glyphState with script := [.issue 0x7100F800] } (.issue 0x7100F800) [] ∧
    encode (.ldgly 1 0x00F8) = .word 0x7100F800 ∧ (1 : BitVec 4) ≠ 0 ∧
    readGlyphSet glyphState (1#4).toNat (0x00F8#16).toNat = .ok [0, 0, 0, 0, 0, 0, 0, 0x1F] ∧
    readGlyphSet glyphState (9#4).toNat (0x00F8#16).toNat = .error .invalidArgument :=
  ⟨by decide, by decide, by decide, rfl, rfl⟩
theorem meets_StepRunsIssuedCommand : NextMove (idleWith (.issue 0x50000000)) (.issue 0x50000000) [] ∧
    decodeCommand 0x50000000 = .command .clrh := by decide
/-- The LCD about to take in the low nibble of CLEAR_DISPLAY. -/
def lcdStepState : State := { runningWith [.strobe] with dout := 0x1, lcd := { lcd0 with iface := .fourBit (some 0x0) } }
theorem meets_StepRunsLcdInstruction : Running lcdStepState [.strobe] ∧ lcdStepState.sync = .inStep ∧ lcdStepState.mode = .instruction ∧
    lcdStepState.lcd.busy = false ∧ lcdStepState.lcd.iface = .fourBit (some 0x0) ∧
    decodeLcdNibbles 0x0 lcdStepState.dout = some .clearDisplay := by decide
theorem meets_RejectionChangesNothing : NextMove (idleWith (.issue 0x79000000)) (.issue 0x79000000) [] ∧
    got (step (idleWith (.issue 0x79000000)))
      (fun t => decide (t.statuses ≠ (idleWith (.issue 0x79000000)).statuses)) = true := by decide
theorem meets_StatusLeavesTheBlockIdle : got (step (runningWith [])) (fun t => decide (t.seq = .idle)) = true := by decide
theorem meets_OneStatusPerCommand :
    got (step (idleWith (.issue 0x50000000))) (fun t => decide (commandCount t = 1)) = true := by decide
theorem meets_WhoMovesThePins :
    (got (step (runningWith [.setMode .data])) (fun t => decide (t.mode ≠ s0.mode)) = true ∧
      (runningWith [.setMode .data]).script = []) ∧
    (got (step { runningWith [.setMode .data] with script := [.powerCycle] }) (fun t => decide (t.mode ≠ s0.mode)) = true ∧
      (runningWith [.setMode .data]).seq ≠ .idle) ∧
    got (step (runningWith [.setData 0x9])) (fun t => decide (t.dout ≠ s0.dout)) = true ∧
    got (step { runningWith [.strobe] with e := 1 }) (fun t => decide (t.e ≠ 1)) = true := by decide
theorem meets_TraceDependsOnOperandsAlone :
    isCommand (.wdat 0x41) = true ∧ s0.cfg = ({ s0 with mode := .data, dout := 0x9 } : State).cfg ∧
    s0.opmem = ({ s0 with mode := .data, dout := 0x9 } : State).opmem ∧
    got (exec (.wdat 0x41) s0) (fun _ => true) = true ∧
    got (exec (.wdat 0x41) { s0 with mode := .data, dout := 0x9 }) (fun _ => true) = true := by decide
theorem meets_CommandFrame :
    (isCommand .init = true ∧ got (exec .init s0) (fun _ => true) = true) ∧
    (isCommand (.wins 0x2F) = true ∧ got (exec (.wins 0x2F) s0) (fun _ => true) = true ∧ (0x2F : Byte).toNat ≠ 0 ∧
      ¬ (0x30 ≤ (0x2F : Byte).toNat ∧ (0x2F : Byte).toNat ≤ 0x3F)) ∧
    (isCommand (.ldgly 9 0) = true ∧ got (exec (.ldgly 9 0) s0) (fun _ => true) = true) := by decide
theorem meets_LcdInstructionFrame :
    (isCommand .clearDisplay = false ∧ got (exec .clearDisplay s0) (fun _ => true) = true) ∧
    (isCommand (.functionSet true true true 0) = false ∧
      got (exec (.functionSet true true true 0) s0) (fun _ => true) = true) ∧
    (isCommand (.cursorDisplayShift true false 0) = false ∧
      got (exec (.cursorDisplayShift true false 0) s0) (fun _ => true) = true) := by decide
theorem meets_LcdShiftInstruction :
    (lcd0.ac = .ddram 0 ∧ (0#7).toNat < 0x7F) ∧
    (({ lcd0 with ac := .ddram 0x7F } : Lcd).ac = .ddram 0x7F ∧ 0 < (0x7F#7).toNat) ∧
    (({ lcd0 with ac := .cgram 0x3E } : Lcd).ac = .cgram 0x3E ∧ (0x3E#6).toNat < 0x3F ∧ 0 < (0x3E#6).toNat) := by decide
/-- An LCD in 8-bit mode about to take in nibble `n`. -/
def eightBitState (n : Nibble) : State :=
  { runningWith [.strobe] with dout := n, lcd := { lcd0 with iface := .eightBit } }
theorem meets_StrobeInEightBitMode :
    (Running (eightBitState 0x3) [.strobe] ∧ (eightBitState 0x3).sync = .inStep ∧ (eightBitState 0x3).mode = .instruction ∧
      (eightBitState 0x3).lcd.busy = false ∧ (eightBitState 0x3).lcd.iface = .eightBit ∧ (eightBitState 0x3).dout = 0x3) ∧
    (Running (eightBitState 0x2) [.strobe] ∧ (eightBitState 0x2).lcd.iface = .eightBit ∧
      (eightBitState 0x2).dout = 0x2) := by decide
theorem meets_StrobeInEightBitMode_byte :
    ∃ (x : Nibble) (i : Instr), x = Config.undrivenNibble ((eightBitState 0xC).fresh + 1) ∧
      decodeLcdNibbles (eightBitState 0xC).dout x = some i :=
  ⟨_, _, rfl, rfl⟩
theorem meets_StrobeInEightBitMode_data :
    (Running { eightBitState 0x4 with mode := .data } [.strobe] ∧ (eightBitState 0x4).sync = .inStep ∧
      (eightBitState 0x4).lcd.busy = false ∧ (eightBitState 0x4).lcd.iface = .eightBit ∧
      (eightBitState 0x4).lcd.ac = .ddram 0 ∧ (0 : BitVec 7) ≠ 0x7F) ∧
    ({ lcd0 with ac := .cgram 0x3F, increment := false } : Lcd).ac = .cgram 0x3F ∧ (0x3F : BitVec 6) ≠ 0 := by decide
/-- Since a WINS of 0x30..0x3F, about to take in nibble `n`. -/
def heldState (n : Nibble) : State := { eightBitState n with sync := .eightBit }
theorem meets_StrobeInEightBitMode_held :
    (Running (heldState 0x2) [.strobe] ∧ (heldState 0x2).sync = .eightBit ∧ (heldState 0x2).lcd.busy = false ∧
      (heldState 0x2).lcd.iface = .eightBit ∧ (heldState 0x2).mode = .instruction) ∧
    (Running { heldState 0x0 with lcd := { lcd0 with iface := .fourBit (some 0x3) } } [.strobe] ∧ lcd0.busy = false) := by
  decide
-- R130(a): nibble 0x2, as the first of WINS 0x28, does not end 8-bit mode outside INIT.
theorem test_held_until_init : got (step (heldState 0x2))
    (fun t => decide (t.lcd.iface = .eightBit) && decide (t.sync = .eightBit)) = true := by decide
theorem meets_OnlyInitBringsLcdBack :
    (got (step { idleWith (.issue 0x10000000) with sync := .unspecified }) (fun t => decide (t.sync = .inStep)) = true) ∧
    (got (step { idleWith .powerCycle with sync := .eightBit }) (fun t => decide (t.sync ≠ .eightBit)) = true) ∧
    got (step { runningWith [.strobe] with sync := .unspecified }) (fun _ => true) = true := by decide
theorem meets_ByteWriteKeepsLcdInStep :
    (Running (runningWith (byteWrite Config.default D 0x00 ++ [])) (byteWrite s0.cfg D 0x00 ++ []) ∧ LcdReady s0) ∧
    (Running (runningWith (byteWrite Config.default I 0x2F ++ [])) (byteWrite s0.cfg I 0x2F ++ []) ∧
      keepsStep 0x2F = true) := by decide
theorem meets_WdatWritesAtTheCounter :
    NextMove (idleWith (.issue (commandWord 0x3 0 0 0x58))) (.issue (commandWord 0x3 0 0 0x58)) [] ∧ LcdReady s0 ∧
    s0.lcd.ac = .ddram 0 ∧ s0.lcd.increment = true ∧ (0 : BitVec 7) ≠ 0x7F ∧
    LcdReady { s0 with lcd := { lcd0 with ac := .cgram 0x3F, increment := false } } ∧ (0x3F : BitVec 6) ≠ 0 := by decide
theorem meets_StepKeepsInvariant :
    Inv (idleWith (.issue 0x10000000)) ∧ got (step (idleWith (.issue 0x10000000))) (fun _ => true) = true := by decide
theorem meets_StepKeepsLcdPaced :
    (LcdPaced (idleWith (.issue 0x10000000)) ∧ noPowerCycle (idleWith (.issue 0x10000000)).script = true ∧
      got (step (idleWith (.issue 0x10000000))) (fun _ => true) = true) ∧ s0.seq = .idle := by decide
theorem meets_BlockIgnoresTheLcd : SameBlock s0 { s0 with lcd := { lcd0 with iface := .eightBit }, fresh := 7 } := rfl
theorem meets_InitBringsAnyLcdToKnownState :
    NextMove { State.reset with script := [.issue 0x10000000] } (.issue 0x10000000) [] := by decide
theorem meets_WstrPutsTextInDdram :
    NextMove { textState with script := [.issue (commandWord 0x4 0 0x00FD 0)], lcd := { lcd0 with ac := .ddram 0x7E } }
      (.issue (commandWord 0x4 0 0x00FD 0)) [] ∧
    readString textState (0x00FD#16).toNat = .ok [0x48, 0x49] ∧ LcdReady { s0 with lcd := { lcd0 with ac := .ddram 0x7E } } ∧
    (0x7E#7).toNat + [0x48#8, 0x49#8].length ≤ 128 ∧ (0x40#7).toNat + [0x48#8, 0x49#8].length < 128 :=
  ⟨by decide, rfl, by decide, by decide, by decide⟩
theorem meets_LdglyLoadsTheSlots :
    NextMove { glyphState with script := [.issue (commandWord 0x7 1 0x00F8 0)] }
      (.issue (commandWord 0x7 1 0x00F8 0)) [] ∧ 1 ≤ (1#4).toNat ∧
    readGlyphSet glyphState (1#4).toNat (0x00F8#16).toNat = .ok [0, 0, 0, 0, 0, 0, 0, 0x1F] ∧
    LcdReady glyphState ∧ glyphState.lcd.increment = true ∧ 0 < (1#4).toNat ∧
    (0x00 : Byte).toNat = 0 ∧ (0x08 : Byte).toNat = 8 + 0 :=
  ⟨by decide, by decide, rfl, by decide, by decide, by decide, by decide, by decide⟩

end Sys2Proof.Tests
end

/-! The scope family (00_scope.md): the nibbles of a byte (R11), the legality of a configuration (R8), and the machine's
invariant. The waits of every command's trace are counted here once, over the trace's parts. -/

namespace Sys2Proof

/-! ### Nibbles -/

/-- A byte is its high nibble joined to its low nibble (R11). -/
theorem hi_append_lo (b : Byte) : hi b ++ lo b = b := by
  have joined : hi b ++ lo b = b.extractLsb' 0 8 := BitVec.extractLsb'_append_extractLsb'_eq_extractLsb' rfl
  rw [joined, BitVec.extractLsb'_eq_self]

/-- `hi b` is the number `b / 16` (R11). -/
theorem toNat_hi (b : Byte) : (hi b).toNat = b.toNat / 16 := by
  rw [hi, BitVec.extractLsb'_toNat, Nat.shiftRight_eq_div_pow]
  have := b.isLt
  omega

/-- `lo b` is the number `b % 16` (R11). -/
theorem toNat_lo (b : Byte) : (lo b).toNat = b.toNat % 16 := by
  simp [lo]

theorem getLsbD_hi (b : Byte) (j : Fin 4) : (hi b).getLsbD j = b.getLsbD (j + 4) := by
  simp [hi, Nat.add_comm]

theorem getLsbD_lo (b : Byte) (j : Fin 4) : (lo b).getLsbD j = b.getLsbD j := by
  simp [lo]

/-- Settles O6: the byte's number is `16 * (b / 16) + b % 16`, and each nibble holds the bits of its field. -/
theorem nibblesOfAByte : Obligations.NibblesOfAByte := by
  intro b
  have value : b.toNat = (hi b).toNat * 16 + (lo b).toNat := by
    rw [toNat_hi, toNat_lo, Nat.div_add_mod']
  exact ⟨(hi_append_lo b).symm, value, getLsbD_hi b, getLsbD_lo b⟩

/-! ### Legal configurations -/

/-- The conditions of R8 with the class ranges of R76. -/
theorem Config.legal_iff (c : Config) : c.legal = true ↔
    1 ≤ c.tSettle ∧ c.tSettle < c.tClear ∧ 1 ≤ c.tPowerOn ∧ 1 ≤ c.opmemSize ∧ c.opmemSize ≤ 65536 ∧
    0x80 ≤ c.line2Cmd.toNat ∧ c.line2Cmd.toNat ≤ 0xFF ∧
    0x04 ≤ c.initEntryMode.toNat ∧ c.initEntryMode.toNat ≤ 0x07 ∧
    0x08 ≤ c.initDisplayControl.toNat ∧ c.initDisplayControl.toNat ≤ 0x0F := by
  have line2_le : c.line2Cmd.toNat ≤ 0xFF := Nat.le_of_lt_succ c.line2Cmd.isLt
  simp only [Config.legal, Bool.and_eq_true, decide_eq_true_eq, and_assoc, line2_le, true_and]

theorem Config.tSettle_pos {c : Config} (h : c.legal = true) : 1 ≤ c.tSettle := (c.legal_iff.1 h).1

theorem Config.tSettle_lt_tClear {c : Config} (h : c.legal = true) : c.tSettle < c.tClear := by
  obtain ⟨-, hlt, -⟩ := c.legal_iff.1 h
  exact hlt

theorem Config.tPowerOn_pos {c : Config} (h : c.legal = true) : 1 ≤ c.tPowerOn := by
  obtain ⟨-, -, hp, -⟩ := c.legal_iff.1 h
  exact hp

end Sys2Proof

namespace Sys2Proof.Machine

/-- An illegal configuration does not run (R8). -/
theorem step_of_illegal {s : State} (h : s.cfg.legal = false) : step s = .refused .illegalConfig := by
  simp [step, h]

/-- Settles O10: legality is R8's list, and `step` looks at it first. -/
theorem illegalConfigurationRefused : Obligations.IllegalConfigurationRefused :=
  fun s => ⟨s.cfg.legal_iff, step_of_illegal⟩

/-! ### The waits of a trace -/

@[simp] theorem waitsPositive_append (xs ys : List Event) :
    waitsPositive (xs ++ ys) = (waitsPositive xs && waitsPositive ys) := List.all_append

/-- What is ahead after one event has positive waits if all had. -/
theorem waitsPositive_of_cons {ev : Event} {rest : List Event} (h : waitsPositive (ev :: rest) = true) :
    waitsPositive rest = true := by
  rw [waitsPositive, List.all_cons, Bool.and_eq_true] at h
  exact h.2

/-- A nibble transfer waits once, for `d` (R62). -/
theorem waitsPositive_xfer (m : Mode) (n : Nibble) {d : Nat} (hd : 1 ≤ d) : waitsPositive (xfer m n d) = true := by
  simpa [waitsPositive, xfer] using hd

section Legal
variable {c : Config} (hl : c.legal = true)
include hl

/-- Both settle waits are positive (R8, R64). -/
theorem settle_pos (m : Mode) (b : Byte) : 1 ≤ settle c m b := by
  have hs := Config.tSettle_pos hl
  have hc := Config.tSettle_lt_tClear hl
  unfold settle
  split <;> omega

theorem waitsPositive_byteWrite (m : Mode) (b : Byte) : waitsPositive (byteWrite c m b) = true := by
  rw [byteWrite, waitsPositive_append, waitsPositive_xfer m _ (Config.tSettle_pos hl),
    waitsPositive_xfer m _ (settle_pos hl m b), Bool.and_self]

/-- Any number of byte writes in one mode: a string, or the rows of a glyph. -/
theorem waitsPositive_flatMap_byteWrite (m : Mode) (bytes : List Byte) :
    waitsPositive (bytes.flatMap (byteWrite c m)) = true := by
  induction bytes with
  | nil => rfl
  | cons b bytes ih => rw [List.flatMap_cons, waitsPositive_append, waitsPositive_byteWrite hl, ih, Bool.and_self]

theorem waitsPositive_clearHomeTrace : waitsPositive (clearHomeTrace c) = true := by
  simp [clearHomeTrace, waitsPositive_byteWrite hl]

/-- INIT's own wait is T_POWER_ON_MS; the others are those of its byte writes (R79). -/
theorem waitsPositive_initTrace : waitsPositive (initTrace c) = true := by
  have head : waitsPositive [.setMode .instruction, .wait c.tPowerOn] = true := by
    simpa [waitsPositive] using Config.tPowerOn_pos hl
  have last : waitsPositive [.setMode .data] = true := rfl
  simp only [initTrace, waitsPositive_append, head, last, waitsPositive_byteWrite hl,
    waitsPositive_clearHomeTrace hl, Bool.and_self]

theorem waitsPositive_glyphsTrace (k n : Nat) (rows : List Byte) : waitsPositive (glyphsTrace c k n rows) = true := by
  induction n generalizing k rows with
  | zero => rfl
  | succ n ih => simp [glyphsTrace, waitsPositive_byteWrite hl, waitsPositive_flatMap_byteWrite hl, ih]

theorem waitsPositive_ldglyTrace (n : Nat) (rows : List Byte) : waitsPositive (ldglyTrace c n rows) = true := by
  unfold ldglyTrace
  split
  · rfl
  · simp [waitsPositive_glyphsTrace hl, waitsPositive_byteWrite hl]

end Legal

/-! ### The waits ahead after a command is issued -/

theorem accept_waitsPositive {tr : List Event} {s t : State} (htr : waitsPositive tr = true)
    (h : accept tr s = .next t) : waitsPositive t.seq.rest = true := by
  obtain ⟨-, rfl⟩ := accept_next h
  exact htr

/-- A checked command has positive waits ahead if its trace has, whatever the check read; a rejected one has none. -/
theorem acceptChecked_waitsPositive {α : Type} {checked : Except Status α} {trace : α → List Event} {s t : State}
    (htr : ∀ x, waitsPositive (trace x) = true) (h : acceptChecked checked trace s = .next t) :
    waitsPositive t.seq.rest = true := by
  obtain ⟨hs, ⟨x, -, rfl⟩ | ⟨st, -, rfl⟩⟩ := acceptChecked_next h
  · exact htr x
  · rw [respond_seq, hs]; rfl

/-- Under a legal configuration no command puts a wait of 0 ms ahead (R61). -/
theorem exec_waitsPositive {i : Instr} {s t : State} (hl : s.cfg.legal = true) (hc : isCommand i = true)
    (h : exec i s = .next t) : waitsPositive t.seq.rest = true := by
  cases i with
  | init => exact accept_waitsPositive (waitsPositive_initTrace hl) h
  | wins code => exact accept_waitsPositive (waitsPositive_byteWrite hl _ code) h
  | wdat d => exact accept_waitsPositive (waitsPositive_byteWrite hl _ d) h
  | wstr addr => exact acceptChecked_waitsPositive (waitsPositive_flatMap_byteWrite hl .data) h
  | clrh => exact accept_waitsPositive (waitsPositive_clearHomeTrace hl) h
  | line2 => exact accept_waitsPositive (waitsPositive_byteWrite hl _ _) h
  | ldgly cnt addr => exact acceptChecked_waitsPositive (waitsPositive_ldglyTrace hl _) h
  | _ => cases hc

theorem issueWord_waitsPositive {w : CommandWord} {s t : State} (hl : s.cfg.legal = true)
    (h : issueWord w s = .next t) : waitsPositive t.seq.rest = true := by
  unfold issueWord at h
  split at h
  next i hd => exact exec_waitsPositive hl (decodeCommand_isCommand hd) h
  next =>
    obtain ⟨hs, rfl⟩ := reject_next h
    rw [respond_seq, hs]; rfl

/-- Issuing a word touches neither the configuration nor E nor the operand memory. -/
theorem issueWord_frame {w : CommandWord} {s t : State} (h : issueWord w s = .next t) :
    t.cfg = s.cfg ∧ t.e = s.e ∧ t.opmem = s.opmem := by
  obtain ⟨-, ⟨i, tr, -, rfl⟩ | rfl | rfl⟩ := issueWord_next h
  · exact ⟨rfl, rfl, rfl⟩
  · exact ⟨rfl, rfl, rfl⟩
  · exact ⟨rfl, rfl, rfl⟩

/-! ### The invariant -/

theorem perform_inv {s : State} {ev : Event} {rest : List Event} (hinv : Inv s) (hs : s.seq = .busy (ev :: rest)) :
    Inv (perform ev (s.setSeq (.busy rest))) := by
  obtain ⟨hl, he, hwf, hin, hwait⟩ := hinv
  rw [hs] at hwait
  refine ⟨by simpa using hl, perform_e _ _ he, by simpa using hwf, by simpa using hin, ?_⟩
  rw [perform_seq]
  exact waitsPositive_of_cons hwait

theorem issueWord_inv {w : CommandWord} {s t : State} (hinv : Inv s) (h : issueWord w s = .next t) : Inv t := by
  obtain ⟨hl, he, hwf, hin, -⟩ := hinv
  obtain ⟨hcfg, hte, hmem⟩ := issueWord_frame h
  refine ⟨?_, ?_, ?_, ?_, issueWord_waitsPositive hl h⟩
  · rw [hcfg, hl]
  · rw [hte, he]
  · rw [hmem, hwf]
  · rw [hcfg, hmem, hin]

/-- The host's store keeps the memory canonical, and inside its bound because the address is. -/
theorem writeCell_inv {s : State} {a : Nat} (hinv : Inv s) (ha : a < s.cfg.opmemSize) (b : Byte) :
    Inv (s.setOpmem (writeCell s.opmem a b)) := by
  obtain ⟨hl, he, hwf, hin, hwait⟩ := hinv
  exact ⟨hl, he, writeCell_wf hwf a b, writeCell_within ha hin b, hwait⟩

theorem complete_inv {s : State} (hinv : Inv s) : Inv (complete s) := by
  obtain ⟨hl, he, hwf, hin, -⟩ := hinv
  exact ⟨hl, he, hwf, hin, rfl⟩

theorem powerOnReset_inv {s : State} (hinv : Inv s) : Inv (powerOnReset s) := by
  obtain ⟨hl, -, hwf, hin, -⟩ := hinv
  exact ⟨hl, rfl, hwf, hin, rfl⟩

/-- Settles O53: each of the things a step can do keeps the invariant; the host's script is not part of it. -/
theorem stepKeepsInvariant : Obligations.StepKeepsInvariant := by
  intro s t hinv h
  have hscript : ∀ ms, Inv (s.setScript ms) := fun _ => hinv
  obtain ⟨-, ⟨ev, rest, hs, rfl⟩ | ⟨-, rfl⟩ | ⟨-, -, rfl⟩ | ⟨-, w, ms, -, hw⟩ | ⟨-, a, b, ms, -, ha, rfl⟩ |
    ⟨-, ms, -, rfl⟩⟩ := step_cases h
  · exact perform_inv hinv hs
  · exact complete_inv hinv
  · exact hinv
  · exact issueWord_inv (hscript ms) hw
  · exact writeCell_inv (hscript ms) ha b
  · exact powerOnReset_inv (hscript ms)

end Sys2Proof.Machine

/-! The state family (10_state.md): what a command's trace depends on (R23, R87), that the block never looks at the LCD
(R27, R114), how a started trace ends (R22, R23), what a step can do to the statuses and the pins (R19 to R24), and the
frames of the commands and of the LCD's instructions. -/

namespace Sys2Proof.Machine

/-! ### A command's trace is made of the configuration and the operand memory -/

section Operands
variable {s t : State} (hcfg : s.cfg = t.cfg) (hmem : s.opmem = t.opmem)
include hcfg hmem

theorem memRead_congr (a : Nat) : s.memRead a = t.memRead a := by
  rw [State.memRead, State.memRead, hcfg, hmem]

theorem scanString_congr (fuel a : Nat) : scanString s fuel a = scanString t fuel a := by
  induction fuel generalizing a with
  | zero => rfl
  | succ fuel ih => simp only [scanString, memRead_congr hcfg hmem, ih]

theorem readString_congr (a : Nat) : readString s a = readString t a := by
  simp only [readString, scanString_congr hcfg hmem, hcfg]

theorem readBytes_congr (len a : Nat) : readBytes s len a = readBytes t len a := by
  induction len generalizing a with
  | zero => rfl
  | succ len ih => simp only [readBytes, memRead_congr hcfg hmem, ih]

theorem readGlyphSet_congr (n a : Nat) : readGlyphSet s n a = readGlyphSet t n a := by
  simp only [readGlyphSet, readBytes_congr hcfg hmem, hcfg]

end Operands

/-- The trace of a command, or the status its argument check raises; an LCD instruction has no trace. -/
def commandTrace (i : Instr) (s : State) : Except Status (List Event) :=
  match i with
  | .init => .ok (initTrace s.cfg)
  | .wins code => .ok (byteWrite s.cfg .instruction code)
  | .wdat d => .ok (byteWrite s.cfg .data d)
  | .wstr addr => (readString s addr.toNat).map (stringTrace s.cfg)
  | .clrh => .ok (clearHomeTrace s.cfg)
  | .line2 => .ok (byteWrite s.cfg .instruction s.cfg.line2Cmd)
  | .ldgly cnt addr => (readGlyphSet s cnt.toNat addr.toNat).map (ldglyTrace s.cfg cnt.toNat)
  | .clearDisplay | .returnHome _ | .entryModeSet _ _ | .displayControl _ _ _ | .cursorDisplayShift _ _ _
  | .functionSet _ _ _ _ | .setCgramAddr _ | .setDdramAddr _ => .ok []

theorem commandTrace_congr (i : Instr) {s t : State} (hcfg : s.cfg = t.cfg) (hmem : s.opmem = t.opmem) :
    commandTrace i s = commandTrace i t := by
  unfold commandTrace
  rw [hcfg]
  cases i with
  | wstr addr => exact congrArg (Except.map _) (readString_congr hcfg hmem _)
  | ldgly cnt addr => exact congrArg (Except.map _) (readGlyphSet_congr hcfg hmem _ _)
  | _ => rfl

theorem acceptChecked_map {α : Type} (checked : Except Status α) (trace : α → List Event) (s : State) :
    acceptChecked (checked.map trace) id s = acceptChecked checked trace s := by
  cases checked <;> rfl

/-- A command is accepted with its `commandTrace` or rejected; `sync` is what the command makes it (the two commands that can
be rejected leave it alone). -/
theorem exec_command {i : Instr} (hi : isCommand i = true) (s : State) :
    exec i s = acceptChecked (commandTrace i s) id (s.setSync (syncAfter i s.sync)) := by
  cases i with
  | wstr addr => exact (acceptChecked_map _ _ s).symm
  | ldgly cnt addr => exact (acceptChecked_map _ _ s).symm
  | init | wins code | wdat d | clrh | line2 => rfl
  | _ => cases hi

/-! ### The block does not look at the LCD -/

/-- States that differ only in the LCD and in the free values to come. -/
theorem SameBlock.exists_eq {s t : State} (h : SameBlock s t) : ∃ l n, t = { s with lcd := l, fresh := n } := ⟨_, _, h⟩

theorem SameBlock.cfg {s t : State} (h : SameBlock s t) : s.cfg = t.cfg := by rw [h]
theorem SameBlock.opmem {s t : State} (h : SameBlock s t) : s.opmem = t.opmem := by rw [h]
theorem SameBlock.seq {s t : State} (h : SameBlock s t) : s.seq = t.seq := by rw [h]
theorem SameBlock.script {s t : State} (h : SameBlock s t) : s.script = t.script := by rw [h]

theorem perform_sameBlock (ev : Event) {s t : State} (h : SameBlock s t) : SameBlock (perform ev s) (perform ev t) := by
  obtain ⟨l, n, rfl⟩ := h.exists_eq
  cases ev <;> rfl

theorem whenIdle_sameOutcome {s t s' t' : State} (h : SameBlock s t) (h' : SameBlock s' t') :
    SameOutcome (whenIdle s s') (whenIdle t t') := by
  unfold whenIdle
  rw [← h.seq]
  cases s.seq with
  | idle => exact h'
  | busy rest => rfl

theorem accept_sameOutcome (tr : List Event) {s t : State} (h : SameBlock s t) :
    SameOutcome (accept tr s) (accept tr t) := by
  refine whenIdle_sameOutcome h ?_
  obtain ⟨l, n, rfl⟩ := h.exists_eq
  rfl

theorem reject_sameOutcome (st : Status) {s t : State} (h : SameBlock s t) :
    SameOutcome (reject st s) (reject st t) := by
  refine whenIdle_sameOutcome h ?_
  obtain ⟨l, n, rfl⟩ := h.exists_eq
  rfl

theorem exec_command_sameOutcome {i : Instr} (hi : isCommand i = true) {s t : State} (h : SameBlock s t) :
    SameOutcome (exec i s) (exec i t) := by
  have htrace : commandTrace i s = commandTrace i t := commandTrace_congr i h.cfg h.opmem
  have hsync : SameBlock (s.setSync (syncAfter i s.sync)) (t.setSync (syncAfter i t.sync)) := by
    obtain ⟨l, n, rfl⟩ := h.exists_eq
    rfl
  rw [exec_command hi, exec_command hi, ← htrace]
  cases commandTrace i s with
  | ok tr => exact accept_sameOutcome tr hsync
  | error st => exact reject_sameOutcome st hsync

theorem issueWord_sameOutcome (w : CommandWord) {s t : State} (h : SameBlock s t) :
    SameOutcome (issueWord w s) (issueWord w t) := by
  unfold issueWord
  cases hd : decodeCommand w with
  | command i => exact exec_command_sameOutcome (decodeCommand_isCommand hd) h
  | illegal why => exact reject_sameOutcome .illegalCommand h

theorem storeOperand_sameOutcome (a : Nat) (b : Byte) {s t : State} (h : SameBlock s t) :
    SameOutcome (storeOperand a b s) (storeOperand a b t) := by
  obtain ⟨l, n, rfl⟩ := h.exists_eq
  unfold storeOperand
  split <;> rfl

theorem hostMove_sameOutcome (m : HostMove) {s t : State} (h : SameBlock s t) :
    SameOutcome (hostMove m s) (hostMove m t) := by
  cases m with
  | issue w => exact issueWord_sameOutcome w h
  | store a b => exact storeOperand_sameOutcome a b h
  | powerCycle =>
    obtain ⟨l, n, rfl⟩ := h.exists_eq
    rfl

/-! One equation per case of `advance`. -/

theorem advance_of_event {s : State} {ev : Event} {rest : List Event} (h : s.seq = .busy (ev :: rest)) :
    advance s = .next (perform ev (s.setSeq (.busy rest))) := by simp [advance, h]

theorem advance_of_traceEmpty {s : State} (h : s.seq = .busy []) : advance s = .next (complete s) := by
  simp [advance, h]

theorem advance_of_move {s : State} {m : HostMove} {ms : List HostMove} (h : s.seq = .idle) (hm : s.script = m :: ms) :
    advance s = hostMove m (s.setScript ms) := by simp [advance, h, hm]

theorem advance_of_noMove {s : State} (h : s.seq = .idle) (hm : s.script = []) : advance s = .next s := by
  simp [advance, h, hm]

theorem advance_sameOutcome {s t : State} (h : SameBlock s t) : SameOutcome (advance s) (advance t) := by
  have setSeq_same : ∀ q, SameBlock (s.setSeq q) (t.setSeq q) := by
    obtain ⟨l, n, rfl⟩ := h.exists_eq
    exact fun _ => rfl
  have setScript_same : ∀ ms, SameBlock (s.setScript ms) (t.setScript ms) := by
    obtain ⟨l, n, rfl⟩ := h.exists_eq
    exact fun _ => rfl
  match hs : s.seq with
  | .busy (ev :: rest) =>
    rw [advance_of_event hs, advance_of_event (h.seq ▸ hs)]
    exact perform_sameBlock ev (setSeq_same _)
  | .busy [] =>
    rw [advance_of_traceEmpty hs, advance_of_traceEmpty (h.seq ▸ hs)]
    obtain ⟨l, n, rfl⟩ := h.exists_eq
    rfl
  | .idle =>
    match hm : s.script with
    | m :: ms =>
      rw [advance_of_move hs hm, advance_of_move (h.seq ▸ hs) (h.script ▸ hm)]
      exact hostMove_sameOutcome m (setScript_same ms)
    | [] =>
      rw [advance_of_noMove hs hm, advance_of_noMove (h.seq ▸ hs) (h.script ▸ hm)]
      exact h

theorem step_sameOutcome {s t : State} (h : SameBlock s t) : SameOutcome (step s) (step t) := by
  unfold step
  rw [← h.cfg]
  split
  · exact advance_sameOutcome h
  · rfl

/-- Settles O56: one step keeps two such states alike, so by induction on the number of steps any run does. -/
theorem blockIgnoresTheLcd : Obligations.BlockIgnoresTheLcd := by
  intro k
  induction k with
  | zero => exact fun s t h => h
  | succ k ih =>
    intro s t h
    have hstep := step_sameOutcome h
    rw [runSteps_succ, runSteps_succ]
    cases hs : step s <;> cases ht : step t <;> rw [hs, ht] at hstep
    case next.next u v => exact ih u v hstep
    case fault.fault => exact hstep
    case refused.refused => exact hstep
    all_goals exact hstep.elim

/-- Settles O44: two states with one configuration and one operand memory have one `commandTrace`. -/
theorem traceDependsOnOperandsAlone : Obligations.TraceDependsOnOperandsAlone := by
  intro i s t s' t' hi hcfg hmem hs ht
  rw [exec_command hi] at hs ht
  rw [← commandTrace_congr i hcfg hmem] at ht
  cases hc : commandTrace i s with
  | ok tr =>
    rw [hc] at hs ht
    obtain ⟨-, rfl⟩ := accept_next hs
    obtain ⟨-, rfl⟩ := accept_next ht
    simp
  | error st =>
    rw [hc] at hs ht
    obtain ⟨hsIdle, rfl⟩ := reject_next hs
    obtain ⟨htIdle, rfl⟩ := reject_next ht
    exact ⟨hsIdle.trans htIdle.symm, by simp⟩

/-! ### How a command ends -/

/-- MODE and DOUT after a trace are those after its first event, then after the rest. -/
theorem modeAfter_cons (m : Mode) (ev : Event) (rest : List Event) :
    modeAfter m (ev :: rest) = modeAfter (modeAfter m [ev]) rest := by cases ev <;> rfl

theorem doutAfter_cons (d : Nibble) (ev : Event) (rest : List Event) :
    doutAfter d (ev :: rest) = doutAfter (doutAfter d [ev]) rest := by cases ev <;> rfl

theorem modeAfter_append (m : Mode) (xs ys : List Event) :
    modeAfter m (xs ++ ys) = modeAfter (modeAfter m xs) ys := by
  induction xs generalizing m with
  | nil => rfl
  | cons ev xs ih => rw [List.cons_append, modeAfter_cons, ih, modeAfter_cons m ev xs]

theorem doutAfter_append (d : Nibble) (xs ys : List Event) :
    doutAfter d (xs ++ ys) = doutAfter (doutAfter d xs) ys := by
  induction xs generalizing d with
  | nil => rfl
  | cons ev xs ih => rw [List.cons_append, doutAfter_cons, ih, doutAfter_cons d ev xs]

/-- A byte write leaves MODE at its mode and DOUT at its low nibble, whatever comes before it (R63). -/
@[simp] theorem modeAfter_append_byteWrite (m m' : Mode) (xs : List Event) (c : Config) (b : Byte) :
    modeAfter m (xs ++ byteWrite c m' b) = m' := by rw [modeAfter_append]; rfl

@[simp] theorem doutAfter_append_byteWrite (d : Nibble) (m : Mode) (xs : List Event) (c : Config) (b : Byte) :
    doutAfter d (xs ++ byteWrite c m b) = lo b := by rw [doutAfter_append]; rfl

theorem step_of_traceEmpty {s : State} (h : Running s []) : step s = .next (complete s) := by
  obtain ⟨hl, hs⟩ := h
  rw [step, if_pos hl, advance_of_traceEmpty hs]

/-- Settles O36, by induction on the events ahead: each is one step, and the empty trace completes. -/
theorem startedTraceRunsToOk : Obligations.StartedTraceRunsToOk := by
  intro s rest hrun
  induction rest generalizing s with
  | nil =>
    exact ⟨complete s, runSteps_of_step (step_of_traceEmpty hrun) 0, rfl, by simp [complete], rfl, rfl, rfl, id, rfl,
      rfl, rfl⟩
  | cons ev rest ih =>
    have hstep := step_of_running hrun
    obtain ⟨t, ht, hidle, hevents, hstatuses, hmode, hdout, he, hscript, hmem, hcfg⟩ :=
      ih (perform ev (s.setSeq (.busy rest))) ⟨by simpa using hrun.1, by simp⟩
    refine ⟨t, (runSteps_of_step hstep _).trans ht, hidle, by simpa using hevents, by simpa using hstatuses, ?_, ?_,
      fun h => he (perform_e _ _ h), by simpa using hscript, by simpa using hmem, by simpa using hcfg⟩
    · rw [hmode, perform_mode, setSeq_mode, ← modeAfter_cons]
    · rw [hdout, perform_dout, setSeq_dout, ← doutAfter_cons]

/-! The command an encoded word decodes to (R46, R50). -/

/-- A command word with the width of each join written as the sum that `BitVec`'s lemmas on `++` speak of. -/
theorem commandWord_eq (op cnt : BitVec 4) (addr : BitVec 16) (imm : Byte) : commandWord op cnt addr imm =
    (((op ++ cnt : BitVec (4 + 4)) ++ addr : BitVec (4 + 4 + 16)) ++ imm : BitVec (4 + 4 + 16 + 8)) := rfl

section Fields
variable (op cnt : BitVec 4) (addr : BitVec 16) (imm : Byte)

@[simp] theorem opField_commandWord : opField (commandWord op cnt addr imm) = op := by
  rw [opField, commandWord_eq, BitVec.extractLsb'_append_eq_of_le (by decide),
    BitVec.extractLsb'_append_eq_of_le (by decide)]
  exact BitVec.extractLsb'_append_eq_left

@[simp] theorem cntField_commandWord : cntField (commandWord op cnt addr imm) = cnt := by
  rw [cntField, commandWord_eq, BitVec.extractLsb'_append_eq_of_le (by decide),
    BitVec.extractLsb'_append_eq_of_le (by decide)]
  exact BitVec.extractLsb'_append_eq_right

@[simp] theorem addrField_commandWord : addrField (commandWord op cnt addr imm) = addr := by
  rw [addrField, commandWord_eq, BitVec.extractLsb'_append_eq_of_le (by decide)]
  exact BitVec.extractLsb'_append_eq_right

@[simp] theorem immField_commandWord : immField (commandWord op cnt addr imm) = imm :=
  BitVec.extractLsb'_append_eq_right

end Fields

/-- The decoder reads a command back from its word. -/
theorem decodeCommand_of_encode {i : Instr} {w : CommandWord} (h : encode i = .word w) :
    decodeCommand w = .command i := by
  cases i <;> cases h
  all_goals simp [decodeCommand, decodeIf]

/-- Settles O38: the host's next move is to issue `w`, and `issueWord` runs what `w` decodes to. -/
theorem stepRunsIssuedCommand : Obligations.StepRunsIssuedCommand := by
  intro s w ms i ⟨hl, hs, hm⟩ hd
  rw [step, if_pos hl, advance_of_move hs hm]
  simp only [hostMove, issueWord, hd]
  rfl

section Issued
variable {s : State} {i : Instr} {w : CommandWord} {ms : List HostMove}

/-- The step that issues a command: the block was Idle, so it is accepted or rejected by its `commandTrace`. -/
theorem step_of_issue (hnext : NextMove s (.issue w) ms) (hw : encode i = .word w) :
    step s = acceptChecked (commandTrace i s) id ((s.setScript ms).setSync (syncAfter i s.sync)) := by
  have hd := decodeCommand_of_encode hw
  have htrace : commandTrace i s = commandTrace i (s.setScript ms) := commandTrace_congr i rfl rfl
  rw [htrace, stepRunsIssuedCommand s w ms i hnext hd]
  exact exec_command (decodeCommand_isCommand hd) (s.setScript ms)

theorem step_of_issue_accepted (hnext : NextMove s (.issue w) ms) (hw : encode i = .word w) {tr : List Event}
    (htr : commandTrace i s = .ok tr) :
    step s = .next (((s.setScript ms).setSync (syncAfter i s.sync)).setSeq (.busy tr)) := by
  obtain ⟨-, hidle, -⟩ := id hnext
  rw [step_of_issue hnext hw, htr]
  exact accept_of_idle (s := (s.setScript ms).setSync _) hidle tr

theorem step_of_issue_rejected (hnext : NextMove s (.issue w) ms) (hw : encode i = .word w) {st : Status}
    (hst : commandTrace i s = .error st) :
    step s = .next (((s.setScript ms).setSync (syncAfter i s.sync)).respond st) := by
  obtain ⟨-, hidle, -⟩ := id hnext
  rw [step_of_issue hnext hw, hst]
  exact reject_of_idle (s := (s.setScript ms).setSync _) hidle st

/-- An accepted command ends with status OK, and MODE and DOUT as its trace leaves them (R22, R23). -/
theorem commandEnds_of_accepted (hnext : NextMove s (.issue w) ms) (hw : encode i = .word w) {tr : List Event}
    (htr : commandTrace i s = .ok tr) : CommandEnds s ms .ok (modeAfter s.mode tr) (doutAfter s.dout tr) := by
  obtain ⟨hl, -, -⟩ := id hnext
  obtain ⟨t, ht, hseq, -, hstatuses, hmode, hdout, -, hscript, -⟩ := startedTraceRunsToOk
    (((s.setScript ms).setSync (syncAfter i s.sync)).setSeq (.busy tr)) tr ⟨hl, rfl⟩
  exact ⟨_, t, (runSteps_of_step (step_of_issue_accepted hnext hw htr) _).trans ht, hseq, hscript, hstatuses, hmode,
    hdout⟩

/-- A rejected command ends at once with the status its check raised, and MODE and DOUT stay (R109). -/
theorem commandEnds_of_rejected (hnext : NextMove s (.issue w) ms) (hw : encode i = .word w) {st : Status}
    (hst : commandTrace i s = .error st) : CommandEnds s ms st s.mode s.dout := by
  obtain ⟨-, hidle, -⟩ := id hnext
  exact ⟨1, _, runSteps_of_step (step_of_issue_rejected hnext hw hst) 0, hidle, rfl, rfl, rfl, rfl⟩

end Issued

/-! MODE and DOUT after the traces of the commands. -/

theorem commandTrace_wstr_ok {s : State} {addr : BitVec 16} {bytes : List Byte}
    (h : readString s addr.toNat = .ok bytes) : commandTrace (.wstr addr) s = .ok (stringTrace s.cfg bytes) := by
  rw [commandTrace, h]; rfl

theorem commandTrace_wstr_error {s : State} {addr : BitVec 16} {st : Status}
    (h : readString s addr.toNat = .error st) : commandTrace (.wstr addr) s = .error st := by
  rw [commandTrace, h]; rfl

theorem commandTrace_ldgly_ok {s : State} {cnt : BitVec 4} {addr : BitVec 16} {rows : List Byte}
    (h : readGlyphSet s cnt.toNat addr.toNat = .ok rows) :
    commandTrace (.ldgly cnt addr) s = .ok (ldglyTrace s.cfg cnt.toNat rows) := by
  rw [commandTrace, h]; rfl

theorem commandTrace_ldgly_error {s : State} {cnt : BitVec 4} {addr : BitVec 16} {st : Status}
    (h : readGlyphSet s cnt.toNat addr.toNat = .error st) : commandTrace (.ldgly cnt addr) s = .error st := by
  rw [commandTrace, h]; rfl

/-- A string's trace ends with the byte write of its last character (R89). -/
theorem stringTrace_concat (c : Config) (bytes : List Byte) (b : Byte) :
    stringTrace c (bytes ++ [b]) = stringTrace c bytes ++ byteWrite c .data b := by
  simp [stringTrace]

theorem ldglyTrace_of_ne_zero (c : Config) {n : Nat} (hn : n ≠ 0) (rows : List Byte) :
    ldglyTrace c n rows = glyphsTrace c 0 n rows ++ byteWrite c .instruction returnToDdram := if_neg hn

/-- INIT leaves MODE at Data, after the low nibble of RETURN_HOME (R79). -/
theorem modeAfter_initTrace (m : Mode) (c : Config) : modeAfter m (initTrace c) = .data := by
  rw [initTrace, modeAfter_append]; rfl

theorem doutAfter_initTrace (d : Nibble) (c : Config) : doutAfter d (initTrace c) = lo returnHomeByte := by
  rw [initTrace, doutAfter_append, clearHomeTrace, ← List.append_assoc, doutAfter_append_byteWrite]; rfl

/-- Settles O37: each command ends as its `commandTrace` says, and a trace that ends in a byte write leaves MODE and DOUT at
that byte's. -/
theorem eachCommandEnds : Obligations.EachCommandEnds := by
  intro s i w ms hnext hw
  have accepted {tr : List Event} := commandEnds_of_accepted hnext hw (tr := tr)
  have rejected {st : Status} := commandEnds_of_rejected hnext hw (st := st)
  refine ⟨?init, ?wins, ?wdat, ?clrh, ?line2, ?wstrEmpty, ?wstr, ?wstrRejected, ?ldglyEmpty, ?ldgly, ?ldglyRejected⟩
  case init =>
    rintro rfl
    have ends := accepted rfl
    rwa [modeAfter_initTrace, doutAfter_initTrace] at ends
  case wins =>
    rintro code rfl
    exact accepted rfl
  case wdat =>
    rintro d rfl
    exact accepted rfl
  case clrh =>
    rintro rfl
    exact accepted rfl
  case line2 =>
    rintro rfl
    exact accepted rfl
  case wstrEmpty =>
    rintro addr rfl h
    exact accepted (commandTrace_wstr_ok h)
  case wstr =>
    rintro addr bytes b rfl h
    have ends := accepted (commandTrace_wstr_ok h)
    rwa [stringTrace_concat, modeAfter_append_byteWrite, doutAfter_append_byteWrite] at ends
  case wstrRejected =>
    rintro addr st rfl h
    obtain rfl := readString_error h
    exact rejected (commandTrace_wstr_error h)
  case ldglyEmpty =>
    rintro addr rfl
    exact accepted (commandTrace_ldgly_ok (rows := []) rfl)
  case ldgly =>
    rintro cnt addr rows rfl hcnt h
    have hn : cnt.toNat ≠ 0 := fun h0 => hcnt (BitVec.eq_of_toNat_eq h0)
    have ends := accepted (commandTrace_ldgly_ok h)
    rwa [ldglyTrace_of_ne_zero _ hn, modeAfter_append_byteWrite, doutAfter_append_byteWrite] at ends
  case ldglyRejected =>
    rintro cnt addr st rfl h
    obtain rfl := readGlyphSet_error h
    exact rejected (commandTrace_ldgly_error h)

/-! ### Statuses and pins -/

/-- Settles O41: an event and a host move other than a command return no status; a completion returns OK, a rejected word
its status, and both leave SEQ Idle. -/
theorem statusLeavesTheBlockIdle : Obligations.StatusLeavesTheBlockIdle := by
  intro s t h
  obtain ⟨-, ⟨ev, rest, -, rfl⟩ | ⟨-, rfl⟩ | ⟨-, -, rfl⟩ | ⟨hidle, w, ms, -, hw⟩ | ⟨-, a, b, ms, -, -, rfl⟩ |
    ⟨-, ms, -, rfl⟩⟩ := step_cases h
  · exact .inl (by simp)
  · exact .inr ⟨.ok, rfl, rfl⟩
  · exact .inl rfl
  · obtain ⟨-, ⟨i, tr, -, rfl⟩ | rfl | rfl⟩ := issueWord_next hw
    · exact .inl rfl
    · exact .inr ⟨.invalidArgument, rfl, hidle⟩
    · exact .inr ⟨.illegalCommand, rfl, hidle⟩
  · exact .inl rfl
  · exact .inl rfl

theorem commandCount_of_idle {s : State} (h : s.seq = .idle) :
    commandCount s = s.script.countP isIssue + s.statuses.length := by simp [commandCount, h]

theorem commandCount_of_busy {s : State} {rest : List Event} (h : s.seq = .busy rest) :
    commandCount s = s.script.countP isIssue + 1 + s.statuses.length := by simp [commandCount, h]

/-- A status returned by an Idle block is one answer more. -/
theorem commandCount_respond {s : State} (h : s.seq = .idle) (st : Status) :
    commandCount (s.respond st) = commandCount s + 1 := by
  rw [commandCount_of_idle h, commandCount_of_idle (s := s.respond st) h]
  simp [Nat.add_assoc]

/-- Issuing a word adds one command, in progress or answered, to those still to come. -/
theorem commandCount_issueWord {w : CommandWord} {s t : State} (h : issueWord w s = .next t) :
    commandCount t = commandCount s + 1 := by
  obtain ⟨hidle, ⟨i, tr, -, rfl⟩ | rfl | rfl⟩ := issueWord_next h
  · rw [commandCount_of_idle hidle, commandCount_of_busy rfl]
    exact Nat.add_right_comm _ _ _
  · exact commandCount_respond hidle _
  · exact commandCount_respond hidle _

/-- Taking the host's next move off its list takes one command off if the move issues one. -/
theorem commandCount_of_script {s : State} {m : HostMove} {ms : List HostMove} (hidle : s.seq = .idle)
    (hm : s.script = m :: ms) : commandCount s = commandCount (s.setScript ms) + if isIssue m then 1 else 0 := by
  rw [commandCount_of_idle hidle, commandCount_of_idle (s := s.setScript ms) hidle, hm, List.countP_cons]
  exact Nat.add_right_comm _ _ _

/-- Settles O42: a completion turns the command in progress into an answer, issuing a word takes one from those to come, and
no other step touches the count. -/
theorem oneStatusPerCommand : Obligations.OneStatusPerCommand := by
  intro s t h
  obtain ⟨-, ⟨ev, rest, hs, rfl⟩ | ⟨hs, rfl⟩ | ⟨-, -, rfl⟩ | ⟨hidle, w, ms, hm, hw⟩ | ⟨hidle, a, b, ms, hm, -, rfl⟩ |
    ⟨hidle, ms, hm, rfl⟩⟩ := step_cases h
  · rw [commandCount_of_busy hs, commandCount_of_busy (perform_seq ev _)]
    simp
  · rw [commandCount_of_busy hs]
    exact (commandCount_respond (s := s.setSeq .idle) rfl .ok).trans (Nat.add_right_comm _ _ _)
  · rfl
  · rw [commandCount_of_script hidle hm]
    exact commandCount_issueWord hw
  · rw [commandCount_of_script hidle hm]; rfl
  · rw [commandCount_of_script hidle hm, commandCount_of_idle (s := s.setScript ms) hidle]; rfl

/-- A step that performs no event and does not cycle the power leaves the pins as they are. -/
theorem pins_of_noEvent {s t : State} (h : step s = .next t)
    (hpower : ¬ (s.seq = .idle ∧ ∃ ms, s.script = .powerCycle :: ms))
    (hevent : ∀ ev rest, s.seq ≠ .busy (ev :: rest)) : t.mode = s.mode ∧ t.dout = s.dout ∧ t.e = s.e := by
  obtain ⟨-, ⟨ev, rest, hs, -⟩ | ⟨-, rfl⟩ | ⟨-, -, rfl⟩ | ⟨-, w, ms, -, hw⟩ | ⟨-, a, b, ms, -, -, rfl⟩ |
    ⟨hidle, ms, hm, -⟩⟩ := step_cases h
  · exact absurd hs (hevent ev rest)
  · exact ⟨rfl, rfl, rfl⟩
  · exact ⟨rfl, rfl, rfl⟩
  · obtain ⟨-, ⟨i, tr, -, rfl⟩ | rfl | rfl⟩ := issueWord_next hw <;> exact ⟨rfl, rfl, rfl⟩
  · exact ⟨rfl, rfl, rfl⟩
  · exact absurd ⟨hidle, ms, hm⟩ hpower

/-- Settles O43: the events alone move a pin, each its own. -/
theorem whoMovesThePins : Obligations.WhoMovesThePins := by
  intro s t h hpower
  by_cases hevent : ∃ ev rest, s.seq = .busy (ev :: rest)
  · obtain ⟨ev, rest, hs⟩ := hevent
    obtain ⟨hl, -⟩ := step_cases h
    rw [step_of_running ⟨hl, hs⟩] at h
    obtain rfl := Host.Outcome.next.inj h
    cases ev with
    | setMode m => exact ⟨fun _ => ⟨m, rest, hs, rfl⟩, fun hd => absurd rfl hd, fun he => absurd rfl he⟩
    | setData n => exact ⟨fun hm => absurd rfl hm, fun _ => ⟨n, rest, hs, rfl⟩, fun he => absurd rfl he⟩
    | strobe => exact ⟨fun hm => absurd rfl hm, fun hd => absurd rfl hd, fun _ => ⟨rest, hs, rfl⟩⟩
    | wait n => exact ⟨fun hm => absurd rfl hm, fun hd => absurd rfl hd, fun he => absurd rfl he⟩
  · obtain ⟨hmode, hdout, he⟩ := pins_of_noEvent h hpower fun ev rest hs => hevent ⟨ev, rest, hs⟩
    exact ⟨absurd hmode, absurd hdout, absurd he⟩

/-! ### Commands: the frame, and the five without an argument check -/

/-- High nibble 0x3 is the range 0x30..0x3F. -/
theorem hi_eq_three_iff (b : Byte) : hi b = 0x3 ↔ 0x30 ≤ b.toNat ∧ b.toNat ≤ 0x3F := by
  rw [← BitVec.toNat_inj, toNat_hi, show (0x3 : Nibble).toNat = 3 from rfl]
  omega

/-- What WINS makes of `sync`, with the byte's range written out (R130, 93 U12). -/
theorem syncAfterWins_eq (code : Byte) (y : LcdSync) :
    syncAfterWins code y =
      if y = .inStep ∧ 0x30 ≤ code.toNat ∧ code.toNat ≤ 0x3F then .eightBit
      else if y = .inStep ∧ code = 0x00 then .unspecified
      else y := by
  cases y with
  | inStep => simp only [syncAfterWins, hi_eq_three_iff, true_and]
  | eightBit => simp [syncAfterWins]
  | unspecified => simp [syncAfterWins]

/-- A command that is neither INIT nor a WINS of 0x00 or 0x30..0x3F leaves `sync` as it is. -/
theorem syncAfter_eq_self {i : Instr} (y : LcdSync) (hinit : i ≠ .init)
    (hwins : ∀ code : Byte, i = .wins code → code.toNat ≠ 0 ∧ ¬ (0x30 ≤ code.toNat ∧ code.toNat ≤ 0x3F)) :
    syncAfter i y = y := by
  cases i with
  | init => exact absurd rfl hinit
  | wins code =>
    obtain ⟨hzero, hrange⟩ := hwins code rfl
    have hne : code ≠ 0x00 := fun h => hzero (h ▸ rfl)
    rw [syncAfter, syncAfterWins_eq, if_neg (fun h => hrange h.2), if_neg (fun h => hne h.2)]
  | _ => rfl

/-- Settles O45: an accepted command writes SEQ and `sync`, a rejected one returns its status. -/
theorem commandFrame : Obligations.CommandFrame := by
  intro i s t hi h
  obtain ⟨-, ⟨tr, rfl⟩ | rfl⟩ := exec_command_next hi h
  · exact ⟨rfl, rfl, rfl, rfl, rfl, rfl, rfl, rfl, fun _ => rfl, syncAfter_eq_self s.sync, .inl ⟨rfl, tr, rfl⟩⟩
  · exact ⟨rfl, rfl, rfl, rfl, rfl, rfl, rfl, rfl, fun _ => rfl, fun _ _ => rfl, .inr ⟨rfl, rfl, rfl⟩⟩

/-- A command whose trace needs no argument check is accepted by an Idle block. -/
theorem exec_of_commandTrace_ok {i : Instr} {s : State} {tr : List Event} (hi : isCommand i = true)
    (hidle : s.seq = .idle) (htr : commandTrace i s = .ok tr) :
    exec i s = .next { s with seq := .busy tr, sync := syncAfter i s.sync } := by
  rw [exec_command hi, htr]
  exact accept_of_idle (s := s.setSync (syncAfter i s.sync)) hidle tr

/-- Settles O24: each of the five has a `commandTrace` whatever the state; INIT's and CLRH's end in the same two byte writes. -/
theorem uncheckedCommandsAccepted : Obligations.UncheckedCommandsAccepted := by
  intro s hidle
  refine ⟨fun code => ?_, fun d => ?_, ?_, ?_, ?_⟩
  · rw [← syncAfterWins_eq]
    exact exec_of_commandTrace_ok rfl hidle rfl
  · exact exec_of_commandTrace_ok rfl hidle rfl
  · exact exec_of_commandTrace_ok rfl hidle rfl
  · exact exec_of_commandTrace_ok rfl hidle rfl
  · have htrace : commandTrace .init s = .ok ([.setMode .instruction, .wait s.cfg.tPowerOn] ++
        byteWrite s.cfg .instruction 0x33 ++ byteWrite s.cfg .instruction 0x32 ++ byteWrite s.cfg .instruction 0x28 ++
        byteWrite s.cfg .instruction s.cfg.initEntryMode ++ byteWrite s.cfg .instruction s.cfg.initDisplayControl ++
        byteWrite s.cfg .instruction 0x01 ++ byteWrite s.cfg .instruction 0x02 ++ [.setMode .data]) := rfl
    exact exec_of_commandTrace_ok rfl hidle htrace

/-! ### Reset -/

/-- Settles O11. -/
theorem resetState : Obligations.ResetState := ⟨rfl, rfl, rfl, rfl, rfl⟩

/-- Settles O54: the default configuration is legal, and nothing is stored or ahead. -/
theorem resetHasInvariant : Obligations.ResetHasInvariant := ⟨by decide, rfl, rfl, rfl, rfl⟩

/-- Settles O12: the step is `powerOnReset` with the move taken off the host's list. -/
theorem powerCycleResetsTheBlock : Obligations.PowerCycleResetsTheBlock := by
  intro s ms ⟨hl, hidle, hm⟩
  have hstep : step s = .next (powerOnReset (s.setScript ms)) := by
    rw [step, if_pos hl, advance_of_move hidle hm]; rfl
  exact ⟨_, hstep, rfl, rfl, rfl, rfl, rfl, rfl, rfl, rfl, rfl, rfl, rfl⟩

/-! ### The LCD's instructions, as functions on the LCD (R73, R74) -/

/-- What an LCD instruction makes of the LCD, before it counts as busy; `fresh` is the index of the free value for a counter
moved past an end. A command makes nothing of it. -/
def lcdEffect (i : Instr) (fresh : Nat) (l : Lcd) : Lcd :=
  match i with
  | .clearDisplay => { l with ddram := Vector.replicate 128 spaceCode, ac := .ddram 0, increment := true }
  | .returnHome _ => { l with ac := .ddram 0, shift := 0 }
  | .entryModeSet increment shift => { l with increment := increment, shiftOnWrite := shift }
  | .displayControl display cursor blink => { l with displayOn := display, cursorOn := cursor, blinkOn := blink }
  | .cursorDisplayShift display right _ =>
    { l with
      shift := if display then (if right then l.shift + 1 else l.shift - 1) else l.shift
      ac := if display then l.ac else moveCounter fresh right l.ac }
  | .functionSet eightBit twoLines font5x10 _ =>
    { l with iface := if eightBit then .eightBit else .fourBit none, twoLines := twoLines, font5x10 := font5x10 }
  | .setCgramAddr a => { l with ac := .cgram a }
  | .setDdramAddr a => { l with ac := .ddram a }
  | .init | .wins _ | .wdat _ | .wstr _ | .clrh | .line2 | .ldgly _ _ => l

/-- An LCD instruction changes the LCD by its `lcdEffect`, and the LCD is then executing it (R28). -/
theorem exec_lcd {i : Instr} (hi : isCommand i = false) (s : State) :
    exec i s = .next (s.setLcd { lcdEffect i s.fresh s.lcd with busy := true }) := by
  cases i with
  | init | wins code | wdat d | wstr addr | clrh | line2 | ldgly cnt addr => cases hi
  | _ => rfl

section Effect
variable (i : Instr) (fresh : Nat) (l : Lcd)

@[simp] theorem lcdEffect_ir : (lcdEffect i fresh l).ir = l.ir := by cases i <;> rfl
@[simp] theorem lcdEffect_dr : (lcdEffect i fresh l).dr = l.dr := by cases i <;> rfl
@[simp] theorem lcdEffect_cgram : (lcdEffect i fresh l).cgram = l.cgram := by cases i <;> rfl

variable {i}

theorem lcdEffect_ddram (h : i ≠ .clearDisplay) : (lcdEffect i fresh l).ddram = l.ddram := by
  cases i with
  | clearDisplay => exact absurd rfl h
  | _ => rfl

theorem lcdEffect_ac (hclear : i ≠ .clearDisplay) (hhome : ∀ x, i ≠ .returnHome x)
    (hcursor : ∀ r x, i ≠ .cursorDisplayShift false r x) (hcgram : ∀ a, i ≠ .setCgramAddr a)
    (hddram : ∀ a, i ≠ .setDdramAddr a) : (lcdEffect i fresh l).ac = l.ac := by
  cases i with
  | clearDisplay => exact absurd rfl hclear
  | returnHome x => exact absurd rfl (hhome x)
  | cursorDisplayShift display right x =>
    cases display with
    | false => exact absurd rfl (hcursor right x)
    | true => rfl
  | setCgramAddr a => exact absurd rfl (hcgram a)
  | setDdramAddr a => exact absurd rfl (hddram a)
  | _ => rfl

theorem lcdEffect_shift (hhome : ∀ x, i ≠ .returnHome x) (hdisplay : ∀ r x, i ≠ .cursorDisplayShift true r x) :
    (lcdEffect i fresh l).shift = l.shift := by
  cases i with
  | returnHome x => exact absurd rfl (hhome x)
  | cursorDisplayShift display right x =>
    cases display with
    | false => rfl
    | true => exact absurd rfl (hdisplay right x)
  | _ => rfl

theorem lcdEffect_functionFields (h : ∀ e n f x, i ≠ .functionSet e n f x) :
    (lcdEffect i fresh l).iface = l.iface ∧ (lcdEffect i fresh l).twoLines = l.twoLines ∧
      (lcdEffect i fresh l).font5x10 = l.font5x10 := by
  cases i with
  | functionSet e n f x => exact absurd rfl (h e n f x)
  | _ => exact ⟨rfl, rfl, rfl⟩

theorem lcdEffect_displayFields (h : ∀ d c k, i ≠ .displayControl d c k) :
    (lcdEffect i fresh l).displayOn = l.displayOn ∧ (lcdEffect i fresh l).cursorOn = l.cursorOn ∧
      (lcdEffect i fresh l).blinkOn = l.blinkOn := by
  cases i with
  | displayControl d c k => exact absurd rfl (h d c k)
  | _ => exact ⟨rfl, rfl, rfl⟩

theorem lcdEffect_entryFields (h : ∀ n sh, i ≠ .entryModeSet n sh) :
    (lcdEffect i fresh l).shiftOnWrite = l.shiftOnWrite ∧
      (i ≠ .clearDisplay → (lcdEffect i fresh l).increment = l.increment) := by
  cases i with
  | entryModeSet n sh => exact absurd rfl (h n sh)
  | clearDisplay => exact ⟨rfl, absurd rfl⟩
  | _ => exact ⟨rfl, fun _ => rfl⟩

end Effect

/-- Settles O46: the instruction is its `lcdEffect`, whose fields are known one by one. -/
theorem lcdInstructionFrame : Obligations.LcdInstructionFrame := by
  intro i s t hi h
  rw [exec_lcd hi] at h
  obtain rfl := Host.Outcome.next.inj h
  exact ⟨rfl, fun _ => rfl, rfl, lcdEffect_ir i _ _, lcdEffect_dr i _ _, lcdEffect_cgram i _ _, lcdEffect_ddram _ _,
    lcdEffect_ac _ _, lcdEffect_shift _ _, lcdEffect_functionFields _ _, lcdEffect_displayFields _ _,
    lcdEffect_entryFields _ _⟩

/-! ### What a strobe brings an LCD in step (R60, R72 to R74) -/

section InStep
variable {s : State} (hsync : s.sync = .inStep) (hbusy : s.lcd.busy = false)
include hsync hbusy

theorem lcdAfterStrobe_inStep : lcdAfterStrobe s = afterNibble (lcdAfterByte s) s := by
  simp [lcdAfterStrobe, hsync, hbusy]

/-- The first strobe of a byte brings its high nibble. -/
theorem lcdAfterStrobe_highNibble (hiface : s.lcd.iface = .fourBit none) :
    lcdAfterStrobe s = { s.lcd with iface := .fourBit (some s.dout) } := by
  rw [lcdAfterStrobe_inStep hsync hbusy, afterNibble, hiface]; rfl

/-- The second strobe of a byte completes it. -/
theorem lcdAfterStrobe_lowNibble {h : Nibble} (hiface : s.lcd.iface = .fourBit (some h)) :
    lcdAfterStrobe s = lcdAfterByte s (.fourBit none) h s.dout := by
  rw [lcdAfterStrobe_inStep hsync hbusy, afterNibble, hiface]; rfl

end InStep

theorem lcdAfterByte_data {s : State} (hmode : s.mode = .data) (iface : Interface) (h l : Nibble) :
    lcdAfterByte s iface h l =
      writeData s.fresh (joinNibbles h l) { s.lcd with iface := iface, dr := joinNibbles h l } := by
  rw [lcdAfterByte, hmode]

theorem lcdAfterByte_instruction {s : State} (hmode : s.mode = .instruction) (iface : Interface) {h l : Nibble}
    {i : Instr} (hd : decodeLcdNibbles h l = some i) :
    lcdAfterByte s iface h l =
      { lcdEffect i s.fresh { s.lcd with iface := iface, ir := joinNibbles h l } with busy := true } := by
  simp only [lcdAfterByte, hmode, hd, exec_lcd (decodeLcdNibbles_not_command hd)]
  rfl

@[simp] theorem storeAtCounter_iface (b : Byte) (l : Lcd) : (storeAtCounter b l).iface = l.iface := by
  unfold storeAtCounter; split <;> rfl

@[simp] theorem storeAtCounter_dr (b : Byte) (l : Lcd) : (storeAtCounter b l).dr = l.dr := by
  unfold storeAtCounter; split <;> rfl

/-- A whole data byte leaves the interface past it and stands in the data register. -/
theorem lcdAfterByte_data_fields {s : State} (hmode : s.mode = .data) (iface : Interface) (h l : Nibble) :
    (lcdAfterByte s iface h l).iface = iface ∧ (lcdAfterByte s iface h l).dr = joinNibbles h l := by
  rw [lcdAfterByte_data hmode]
  exact ⟨storeAtCounter_iface _ _, storeAtCounter_dr _ _⟩

/-- A byte that keeps step decodes to an instruction that leaves a 4-bit LCD expecting a high nibble. -/
theorem exists_of_keepsStep {b : Byte} (h : keepsStep b = true) :
    ∃ i, decodeLcdNibbles (hi b) (lo b) = some i ∧
      ∀ fresh l, l.iface = .fourBit none → (lcdEffect i fresh l).iface = .fourBit none := by
  unfold keepsStep decodeLcdByte at h
  cases hd : decodeLcdNibbles (hi b) (lo b) with
  | none => rw [hd] at h; cases h
  | some i =>
    rw [hd] at h
    refine ⟨i, rfl, fun fresh l hl => ?_⟩
    cases i with
    | functionSet e n f x =>
      cases e with
      | false => rfl
      | true => cases h
    | _ => exact hl

/-- A whole instruction byte that keeps step leaves the interface past it and stands in the instruction register. -/
theorem lcdAfterByte_instruction_fields {s : State} {b : Byte} (hmode : s.mode = .instruction)
    (hb : keepsStep b = true) : (lcdAfterByte s (.fourBit none) (hi b) (lo b)).iface = .fourBit none ∧
      (lcdAfterByte s (.fourBit none) (hi b) (lo b)).ir = b := by
  obtain ⟨i, hd, hiface⟩ := exists_of_keepsStep hb
  rw [lcdAfterByte_instruction hmode _ hd]
  exact ⟨hiface _ _ rfl, (lcdEffect_ir _ _ _).trans (hi_append_lo b)⟩

/-! ### A nibble transfer as four steps (R62) -/

/-- The state after the events `tr` one by one, with the events `rest` still ahead. -/
def performTrace : List Event → List Event → State → State
  | [], _, s => s
  | ev :: tr, rest, s => performTrace tr rest (perform ev (s.setSeq (.busy (tr ++ rest))))

/-- The events of a trace are one step each (R23). -/
theorem runSteps_trace {s : State} {tr rest : List Event} (hrun : Running s (tr ++ rest)) :
    runSteps tr.length s = .next (performTrace tr rest s) := by
  induction tr generalizing s with
  | nil => rfl
  | cons ev tr ih =>
    refine (runSteps_of_step (step_of_running hrun) tr.length).trans (ih ⟨?_, ?_⟩)
    · simpa using hrun.1
    · simp

/-- The state in which the strobe of the transfer `xfer m n d` reaches the LCD: its mode and nibble are on the pins. -/
def atStrobe (m : Mode) (n : Nibble) (d : Nat) (rest : List Event) (s : State) : State :=
  { s with
    mode := m, dout := n, e := 1, seq := .busy (.wait d :: rest), events := s.events ++ [.setMode m] ++ [.setData n],
    fresh := s.fresh + 1 }

/-- The state after the transfer `xfer m n d` whose strobe leaves the LCD as `l`; the wait has ended what it executes. -/
def afterXfer (m : Mode) (n : Nibble) (d : Nat) (rest : List Event) (l : Lcd) (s : State) : State :=
  { s with
    mode := m, dout := n, e := 0, seq := .busy rest, events := s.events ++ xfer m n d, fresh := s.fresh + 1,
    lcd := { l with busy := false } }

section Transfer
variable {s : State} {m : Mode} {n : Nibble} {d : Nat} {rest : List Event} (hrun : Running s (xfer m n d ++ rest))
include hrun

theorem runSteps_xfer : runSteps 4 s = .next (afterXfer m n d rest (lcdAfterStrobe (atStrobe m n d rest s)) s) := by
  have hperform : performTrace (xfer m n d) rest s =
      afterXfer m n d rest (lcdAfterStrobe (atStrobe m n d rest s)) s := by
    simp [afterXfer, atStrobe, xfer, performTrace, perform_setMode, perform_setData, perform_strobe, perform_wait,
      State.setMode, State.setDout, State.setE, State.setSeq, State.setLcd, State.record, State.draw]
  rw [← hperform]
  exact runSteps_trace hrun

/-- The transfer of a byte's high nibble to a ready LCD. -/
theorem runSteps_highNibble (hready : LcdReady s) :
    runSteps 4 s = .next (afterXfer m n d rest { s.lcd with iface := .fourBit (some n) } s) := by
  obtain ⟨hsync, hiface, hbusy⟩ := hready
  rw [runSteps_xfer hrun, lcdAfterStrobe_highNibble (s := atStrobe m n d rest s) hsync hbusy hiface]
  rfl

/-- The transfer of a byte's low nibble to an LCD in step that holds the high nibble `h`. -/
theorem runSteps_lowNibble {h : Nibble} (hsync : s.sync = .inStep) (hbusy : s.lcd.busy = false)
    (hiface : s.lcd.iface = .fourBit (some h)) :
    runSteps 4 s = .next (afterXfer m n d rest (lcdAfterByte (atStrobe m n d rest s) (.fourBit none) h n) s) := by
  rw [runSteps_xfer hrun, lcdAfterStrobe_lowNibble (s := atStrobe m n d rest s) hsync hbusy hiface]
  rfl

end Transfer

/-- The state between the two transfers of a byte write to a ready LCD, which holds the high nibble. -/
def betweenNibbles (m : Mode) (b : Byte) (rest : List Event) (s : State) : State :=
  afterXfer m (hi b) s.cfg.tSettle (xfer m (lo b) (settle s.cfg m b) ++ rest)
    { s.lcd with iface := .fourBit (some (hi b)) } s

/-- A byte write to a ready LCD: the second transfer completes the byte (R63). -/
theorem runSteps_byteWrite {s : State} {m : Mode} {b : Byte} {rest : List Event}
    (hrun : Running s (byteWrite s.cfg m b ++ rest)) (hready : LcdReady s) :
    runSteps 8 s = .next (afterXfer m (lo b) (settle s.cfg m b) rest
      (lcdAfterByte (atStrobe m (lo b) (settle s.cfg m b) rest (betweenNibbles m b rest s)) (.fourBit none) (hi b) (lo b))
      (betweenNibbles m b rest s)) := by
  obtain ⟨hl, hseq⟩ := hrun
  rw [byteWrite, List.append_assoc] at hseq
  have hhigh : runSteps 4 s = .next (betweenNibbles m b rest s) := runSteps_highNibble ⟨hl, hseq⟩ hready
  rw [runSteps_add hhigh 4]
  exact runSteps_lowNibble (s := betweenNibbles m b rest s) ⟨hl, rfl⟩ hready.1 rfl rfl

/-- Settles O51: the byte the second transfer completes leaves the interface past it and stands in its register, and the
wait after it ends what the LCD executes. -/
theorem byteWriteKeepsLcdInStep : Obligations.ByteWriteKeepsLcdInStep := by
  intro s m b rest hrun hready hm
  refine ⟨_, runSteps_byteWrite hrun hready, ?_⟩
  cases m with
  | data =>
    obtain ⟨hiface, hdr⟩ := lcdAfterByte_data_fields
      (s := atStrobe .data (lo b) _ rest (betweenNibbles .data b rest s)) rfl (.fourBit none) (hi b) (lo b)
    exact ⟨⟨hready.1, hiface, rfl⟩, nofun, fun _ => hdr.trans (hi_append_lo b)⟩
  | instruction =>
    obtain ⟨hiface, hir⟩ := lcdAfterByte_instruction_fields
      (s := atStrobe .instruction (lo b) _ rest (betweenNibbles .instruction b rest s)) rfl (hm.resolve_left nofun)
    exact ⟨⟨hready.1, hiface, rfl⟩, fun _ => hir, nofun⟩

end Sys2Proof.Machine

/-! The memory family (20_memory.md): the host's store to the operand memory and what can change a byte of it (R31, R32), and
the data byte an LCD in step writes at its address counter (R37, R69, R74). -/

namespace Sys2Proof.Machine

/-! ### The host's store -/

theorem memRead_of_le {s : State} {a : Nat} (h : s.cfg.opmemSize ≤ a) : s.memRead a = none := if_neg (Nat.not_lt.2 h)

/-- A store takes the host's move off its list and writes the byte, or faults (R31). -/
theorem step_of_store {s : State} {a : Nat} {b : Byte} {ms : List HostMove} (hnext : NextMove s (.store a b) ms) :
    step s = storeOperand a b (s.setScript ms) := by
  obtain ⟨hl, hidle, hm⟩ := hnext
  rw [step, if_pos hl, advance_of_move hidle hm]
  rfl

theorem storeOperand_of_lt {s : State} {a : Nat} (h : a < s.cfg.opmemSize) (b : Byte) :
    storeOperand a b s = .next (s.setOpmem (writeCell s.opmem a b)) := if_pos h

theorem storeOperand_of_le {s : State} {a : Nat} (h : s.cfg.opmemSize ≤ a) (b : Byte) :
    storeOperand a b s = .fault (.operandAddressAbsent a) := if_neg (Nat.not_lt.2 h)

/-- A store inside a canonical memory is what a read sees at its address; every other address reads as before. -/
theorem memRead_setOpmem_writeCell {s : State} {a : Nat} (hwf : Memory.wf s.opmem = true) (ha : a < s.cfg.opmemSize)
    (b : Byte) (x : Nat) :
    (s.setOpmem (writeCell s.opmem a b)).memRead x = if x = a then some b else s.memRead x := by
  simp only [State.memRead, setOpmem_cfg, setOpmem_opmem, readCell_writeCell hwf]
  by_cases hx : x = a
  · simp [hx, ha]
  · simp [hx]

/-- Settles O13: below OPMEM_SIZE the store is a `writeCell`, which a read sees; at or above it, it is the fault. -/
theorem hostStoreThenRead : Obligations.HostStoreThenRead := by
  intro s a b ms hnext hwf
  rw [step_of_store hnext]
  refine ⟨fun ha => ?_, fun ha => ⟨storeOperand_of_le (s := s.setScript ms) ha b, memRead_of_le ha⟩⟩
  have hread := memRead_setOpmem_writeCell (s := s.setScript ms) hwf ha b
  exact ⟨_, storeOperand_of_lt (s := s.setScript ms) ha b, (hread a).trans (if_pos rfl),
    fun x hx => (hread x).trans (if_neg hx), rfl⟩

/-! ### What can change an operand byte -/

/-- A cell put in front is seen at its own address alone, canonical memory or not. -/
theorem readCell_consCell_of_ne {a x : Nat} (hx : x ≠ a) (b : Byte) (m : Memory) :
    readCell (consCell a b m) x = readCell m x := by
  unfold consCell
  split
  · rfl
  · rw [readCell, if_neg hx.symm]

/-- A write is seen at its own address alone, canonical memory or not. -/
theorem readCell_writeCell_of_ne {a x : Nat} (hx : x ≠ a) (b : Byte) (m : Memory) :
    readCell (writeCell m a b) x = readCell m x := by
  induction m with
  | nil => exact readCell_consCell_of_ne hx b []
  | cons c rest ih =>
    obtain ⟨k, v⟩ := c
    unfold writeCell
    split
    · exact readCell_consCell_of_ne hx b _
    · split
      next hak => rw [readCell_consCell_of_ne hx, readCell, if_neg (hak ▸ hx.symm)]
      next => rw [readCell, ih, readCell]

/-- Settles O14: of the things a step can do, only the host's store touches the operand memory, and it touches one address. -/
theorem blockNeverWritesOperandMemory : Obligations.BlockNeverWritesOperandMemory := by
  intro s t h
  obtain ⟨-, ⟨ev, rest, -, rfl⟩ | ⟨-, rfl⟩ | ⟨-, -, rfl⟩ | ⟨-, w, ms, -, hw⟩ | ⟨hidle, a, b, ms, hm, ha, rfl⟩ |
    ⟨-, ms, -, rfl⟩⟩ := step_cases h
  · exact ⟨by simp, fun x hx => absurd (by simp) hx⟩
  · exact ⟨rfl, fun x hx => absurd rfl hx⟩
  · exact ⟨rfl, fun x hx => absurd rfl hx⟩
  · obtain ⟨hcfg, -, hmem⟩ := issueWord_frame hw
    exact ⟨hcfg, fun x hx => absurd (by rw [hmem]; rfl) hx⟩
  · refine ⟨rfl, fun x hx => ?_⟩
    obtain rfl : x = a := by
      by_contra hxa
      exact hx (readCell_writeCell_of_ne hxa b _)
    exact ⟨hidle, b, ms, hm, ha⟩
  · exact ⟨rfl, fun x hx => absurd rfl hx⟩

/-! ### The address counter and the cell it selects -/

section Counter
variable (fresh : Nat)

theorem moveCounter_ddram_up {a : BitVec 7} (h : a ≠ 0x7F) : moveCounter fresh true (.ddram a) = .ddram (a + 1) := if_neg h
theorem moveCounter_ddram_down {a : BitVec 7} (h : a ≠ 0) : moveCounter fresh false (.ddram a) = .ddram (a - 1) := if_neg h
theorem moveCounter_cgram_up {a : BitVec 6} (h : a ≠ 0x3F) : moveCounter fresh true (.cgram a) = .cgram (a + 1) := if_neg h
theorem moveCounter_cgram_down {a : BitVec 6} (h : a ≠ 0) : moveCounter fresh false (.cgram a) = .cgram (a - 1) := if_neg h

theorem writeData_ac (b : Byte) (l : Lcd) : (writeData fresh b l).ac = moveCounter fresh l.increment l.ac := rfl

theorem writeData_iface (b : Byte) (l : Lcd) : (writeData fresh b l).iface = l.iface := storeAtCounter_iface b l

/-- With the counter in DDRAM a data byte goes to the DDRAM cell at the counter, and CGRAM stays (R37, R74). -/
theorem writeData_of_ddram {l : Lcd} {a : BitVec 7} (hac : l.ac = .ddram a) (b : Byte) :
    (∀ (x : Nat) (hx : x < 128), (writeData fresh b l).ddram[x] = if x = a.toNat then b else l.ddram[x]) ∧
      (writeData fresh b l).cgram = l.cgram := by
  have hstore : storeAtCounter b l = { l with ddram := l.ddram.set a.toNat b a.isLt } := by
    rw [storeAtCounter, hac]
  rw [writeData, hstore]
  exact ⟨fun x hx => by simp [Vector.getElem_set, @eq_comm _ x], rfl⟩

/-- With the counter in CGRAM a data byte goes to the CGRAM cell at the counter, and DDRAM stays (R37, R74). -/
theorem writeData_of_cgram {l : Lcd} {a : BitVec 6} (hac : l.ac = .cgram a) (b : Byte) :
    (∀ (x : Nat) (hx : x < 64), (writeData fresh b l).cgram[x] = if x = a.toNat then b else l.cgram[x]) ∧
      (writeData fresh b l).ddram = l.ddram := by
  have hstore : storeAtCounter b l = { l with cgram := l.cgram.set a.toNat b a.isLt } := by
    rw [storeAtCounter, hac]
  rw [writeData, hstore]
  exact ⟨fun x hx => by simp [Vector.getElem_set, @eq_comm _ x], rfl⟩

end Counter

/-! ### A data byte write to a ready LCD -/

/-- A ready LCD after a whole data byte and the wait behind it. -/
def lcdAfterData (fresh : Nat) (b : Byte) (l : Lcd) : Lcd :=
  { writeData fresh b { l with dr := b } with busy := false }

/-- The state after a data byte write to a ready LCD, with the events `rest` still ahead. -/
def afterDataByte (b : Byte) (rest : List Event) (s : State) : State :=
  { s with
    mode := .data, dout := lo b, e := 0, seq := .busy rest, events := s.events ++ byteWrite s.cfg .data b,
    fresh := s.fresh + 2, lcd := lcdAfterData (s.fresh + 2) b s.lcd }

theorem afterDataByte_ready {s : State} (hready : LcdReady s) (b : Byte) (rest : List Event) :
    LcdReady (afterDataByte b rest s) := by
  obtain ⟨hsync, hiface, -⟩ := hready
  exact ⟨hsync, (writeData_iface (s.fresh + 2) b { s.lcd with dr := b }).trans hiface, rfl⟩

/-- The eight events of a data byte write bring a ready LCD the whole byte (R63, R74). -/
theorem runSteps_dataByte {s : State} {b : Byte} {rest : List Event}
    (hrun : Running s (byteWrite s.cfg .data b ++ rest)) (hready : LcdReady s) :
    runSteps 8 s = .next (afterDataByte b rest s) := by
  obtain ⟨-, hiface, hbusy⟩ := id hready
  have hlcd : { s.lcd with iface := .fourBit none, busy := false, dr := b } = { s.lcd with dr := b } := by
    rw [← hiface, ← hbusy]
  have hjoin : joinNibbles (hi b) (lo b) = b := hi_append_lo b
  have hevents : s.events ++ byteWrite s.cfg .data b =
      s.events ++ xfer .data (hi b) s.cfg.tSettle ++ xfer .data (lo b) (settle s.cfg .data b) :=
    (List.append_assoc _ _ _).symm
  rw [runSteps_byteWrite hrun hready, lcdAfterByte_data rfl, hjoin, afterDataByte, lcdAfterData, hevents, ← hlcd]
  rfl

/-- WDAT on a ready LCD, run to its end (R69): issued, its eight events, completed. -/
theorem runSteps_wdat {s : State} {d : Byte} {ms : List HostMove}
    (hnext : NextMove s (.issue (commandWord 0x3 0 0 d)) ms) (hready : LcdReady s) :
    runSteps 10 s = .next (complete (afterDataByte d [] (s.setScript ms))) := by
  obtain ⟨hl, -, -⟩ := id hnext
  have hissue := step_of_issue_accepted (i := .wdat d) hnext rfl rfl
  have hbyte := runSteps_dataByte (s := ((s.setScript ms).setSync s.sync).setSeq (.busy (byteWrite s.cfg .data d)))
    (b := d) (rest := []) ⟨hl, by simp⟩ hready
  have hcomplete := step_of_traceEmpty (s := afterDataByte d [] (s.setScript ms)) ⟨hl, rfl⟩
  exact (runSteps_of_step hissue 9).trans ((runSteps_add hbyte 1).trans (runSteps_of_step hcomplete 0))

/-- Settles O52: WDAT's byte is `writeData` at the counter, in either RAM. -/
theorem wdatWritesAtTheCounter : Obligations.WdatWritesAtTheCounter := by
  intro s d ms hnext hready
  have hcounter : (complete (afterDataByte d [] (s.setScript ms))).lcd.ac =
      moveCounter (s.fresh + 2) s.lcd.increment s.lcd.ac := writeData_ac (s.fresh + 2) d { s.lcd with dr := d }
  refine ⟨_, runSteps_wdat hnext hready, rfl, afterDataByte_ready hready d [], fun a hac => ?ddram, fun a hac => ?cgram⟩
  case ddram =>
    obtain ⟨hcells, hcgram⟩ := writeData_of_ddram (s.fresh + 2) (l := { s.lcd with dr := d }) hac d
    refine ⟨hcells, hcgram, fun hinc ha => ?up, fun hinc ha => ?down⟩
    case up => rw [hcounter, hinc, hac, moveCounter_ddram_up _ ha]
    case down => rw [hcounter, hinc, hac, moveCounter_ddram_down _ ha]
  case cgram =>
    obtain ⟨hcells, hddram⟩ := writeData_of_cgram (s.fresh + 2) (l := { s.lcd with dr := d }) hac d
    refine ⟨hcells, hddram, fun hinc ha => ?up, fun hinc ha => ?down⟩
    case up => rw [hcounter, hinc, hac, moveCounter_cgram_up _ ha]
    case down => rw [hcounter, hinc, hac, moveCounter_cgram_down _ ha]

end Sys2Proof.Machine

/-! The encoding family (30_encoding.md): a command word as its four fields (R46), the decoder as the inverse of the encoder
on command words and on LCD instruction bytes (R48 to R50, R72), the match and mask of each command row (R49), the rejection of
illegal words (R51, R52), and the words of the assembler's lines (R56, R57). -/

namespace Sys2Proof

open Sys2Proof.Machine

/-! ### A command word is its four fields (R46) -/

theorem commandWord_fields (w : CommandWord) :
    commandWord (opField w) (cntField w) (addrField w) (immField w) = w := by
  have opCnt : opField w ++ cntField w = w.extractLsb' 24 8 := BitVec.extractLsb'_append_extractLsb'_eq_extractLsb' rfl
  have opCntAddr : w.extractLsb' 24 8 ++ addrField w = w.extractLsb' 8 24 :=
    BitVec.extractLsb'_append_extractLsb'_eq_extractLsb' rfl
  have whole : w.extractLsb' 8 24 ++ immField w = w.extractLsb' 0 32 :=
    BitVec.extractLsb'_append_extractLsb'_eq_extractLsb' rfl
  rw [commandWord, opCnt, opCntAddr, whole, BitVec.extractLsb'_eq_self]

theorem commandWord_eq_iff {op cnt : BitVec 4} {addr : BitVec 16} {imm : Byte} {w : CommandWord} :
    commandWord op cnt addr imm = w ↔ opField w = op ∧ cntField w = cnt ∧ addrField w = addr ∧ immField w = imm := by
  constructor
  · rintro rfl
    simp
  · rintro ⟨rfl, rfl, rfl, rfl⟩
    exact commandWord_fields w

/-- A word under a mask is compared with a match field by field. -/
theorem and_commandWord_eq_iff {w : CommandWord} {op cnt op' cnt' : BitVec 4} {addr addr' : BitVec 16}
    {imm imm' : Byte} : w &&& commandWord op cnt addr imm = commandWord op' cnt' addr' imm' ↔
      opField w &&& op = op' ∧ cntField w &&& cnt = cnt' ∧ addrField w &&& addr = addr' ∧ immField w &&& imm = imm' := by
  have fields : w &&& commandWord op cnt addr imm =
      commandWord (opField w &&& op) (cntField w &&& cnt) (addrField w &&& addr) (immField w &&& imm) := by
    rw [← Laws.RowMatch.and_commandWord, commandWord_fields]
  rw [eq_comm, commandWord_eq_iff, fields]
  simp

/-- The number a command word is. -/
theorem commandWord_eq_ofNat (op cnt : BitVec 4) (addr : BitVec 16) (imm : Byte) :
    commandWord op cnt addr imm =
      BitVec.ofNat 32 (0x10000000 * op.toNat + 0x1000000 * cnt.toNat + 256 * addr.toNat + imm.toNat) := by
  have toNat_append_add {m n : Nat} (x : BitVec m) (y : BitVec n) : (x ++ y).toNat = x.toNat * 2 ^ n + y.toNat := by
    rw [BitVec.toNat_append, ← Nat.shiftLeft_add_eq_or_of_lt y.isLt, Nat.shiftLeft_eq]
  apply BitVec.eq_of_toNat_eq
  rw [commandWord_eq, toNat_append_add, toNat_append_add, toNat_append_add, BitVec.toNat_ofNat]
  omega

/-! ### The command decoder inverts the encoder (R48 to R50) -/

/-- A word that decodes to a command is its encoding: the decoder puts the fields the command has into it, and finds the
others zero. -/
theorem encode_of_decodeCommand {w : CommandWord} {i : Instr} (h : decodeCommand w = .command i) :
    encode i = .word w := by
  rw [← commandWord_fields w]
  unfold decodeCommand at h
  repeat' split at h
  case isFalse => cases h
  all_goals
    obtain ⟨hzero, rfl⟩ := decodeIf_command h
    simp_all [encode]

theorem decodeCommand_eq_command_iff {w : CommandWord} {i : Instr} :
    decodeCommand w = .command i ↔ encode i = .word w :=
  ⟨encode_of_decodeCommand, decodeCommand_of_encode⟩

/-! ### The LCD's decoder inverts the encoder (R72, R73) -/

theorem decodeLcdByte_of_encode {i : Instr} {b : Byte} (h : encode i = .byte b) : decodeLcdByte b = some i := by
  cases i with
  | clearDisplay => cases h; decide
  | returnHome x => cases h; revert x; decide
  | entryModeSet n s => cases h; revert n s; decide
  | displayControl d c k => cases h; revert d c k; decide
  | cursorDisplayShift d r x => cases h; revert d r x; decide
  | functionSet e n f x => cases h; revert e n f x; decide
  | setCgramAddr a => cases h; revert a; decide
  | setDdramAddr a => cases h; revert a; decide
  | init | wins code | wdat d | wstr addr | clrh | line2 | ldgly cnt addr => cases h

/-- Below 0x40 every class is a pattern with fields of one or two bits. -/
theorem encode_of_decodeLcdNibbles_low : ∀ (h : BitVec 2) (l : Nibble), ∀ i ∈ decodeLcdNibbles (0b00#2 ++ h) l,
    encode i = .byte (joinNibbles (0b00#2 ++ h) l) := by decide

/-- A pattern before an address, whose high bits end the high nibble. -/
theorem append_address {m n : Nat} (p : BitVec m) (a : BitVec n) (l : Nibble) :
    p ++ (a ++ l) = ((p ++ a) ++ l).cast (Nat.add_assoc ..) := by
  simp [BitVec.append_assoc]

/-- A byte that decodes to an LCD instruction is its encoding. From 0x40 on it is a pattern and an address: the pattern with
the address's high bits is the high nibble. -/
theorem encode_of_decodeLcdNibbles {h l : Nibble} {i : Instr} (hd : decodeLcdNibbles h l = some i) :
    encode i = .byte (joinNibbles h l) := by
  have ddram : ∀ n : Nibble, n.getLsbD 3 = true → 0b1#1 ++ n.extractLsb' 0 3 = n := by decide
  have cgram : ∀ n : Nibble, n.getLsbD 3 = false → n.getLsbD 2 = true → 0b01#2 ++ n.extractLsb' 0 2 = n := by decide
  have low : ∀ n : Nibble, n.getLsbD 3 = false → n.getLsbD 2 = false → 0b00#2 ++ n.extractLsb' 0 2 = n := by decide
  cases h3 : h.getLsbD 3 with
  | true =>
    rw [decodeLcdNibbles, if_pos h3] at hd
    cases hd
    exact congrArg Encoded.byte ((append_address 0b1#1 _ l).trans (congrArg (· ++ l) (ddram h h3)))
  | false =>
    cases h2 : h.getLsbD 2 with
    | true =>
      rw [decodeLcdNibbles, if_neg (Bool.eq_false_iff.1 h3), if_pos h2] at hd
      cases hd
      exact congrArg Encoded.byte ((append_address 0b01#2 _ l).trans (congrArg (· ++ l) (cgram h h3 h2)))
    | false =>
      rw [← low h h3 h2] at hd ⊢
      exact encode_of_decodeLcdNibbles_low _ l i hd

theorem decodeTableWord_word (w : CommandWord) : decodeTableWord 32 w.toNat = (decodeCommand w).toOption := by
  simp [decodeTableWord]

theorem decodeTableWord_byte (b : Byte) : decodeTableWord 8 b.toNat = decodeLcdByte b := by
  simp [decodeTableWord]

/-- Settles O1: an instruction's encoding is a command word or an LCD byte, and each decoder inverts the encoder on its own. -/
theorem encodeThenDecode : Obligations.EncodeThenDecode := by
  intro i
  cases h : encode i with
  | word w => exact (decodeTableWord_word w).trans (congrArg Decoded.toOption (decodeCommand_of_encode h))
  | byte b => exact (decodeTableWord_byte b).trans (decodeLcdByte_of_encode h)

/-- Settles O2: for the byte, its two nibbles joined. -/
theorem decodeThenEncode : Obligations.DecodeThenEncode := by
  refine ⟨fun w i => encode_of_decodeCommand, fun b i h => ?_⟩
  rw [encode_of_decodeLcdNibbles h, joinNibbles, hi_append_lo]

/-! ### The rows of the commands (R49)

One lemma per form of mask: the fields outside the mask are the command's operands. -/

section Rows
variable {w : CommandWord} {op cnt : BitVec 4} {addr : BitVec 16} {imm : Byte}

/-- INIT, CLRH, LINE2: no operand. -/
theorem decodeCommand_iff_of_noOperand {i : Instr} (hencode : encode i = .word (commandWord op cnt addr imm)) :
    decodeCommand w = .command i ↔ w &&& 0xFFFFFFFF = commandWord op cnt addr imm := by
  have mask : (0xFFFFFFFF : CommandWord) = BitVec.allOnes 32 := by decide
  rw [decodeCommand_eq_command_iff, hencode, mask, BitVec.and_allOnes, Encoded.word.injEq, eq_comm]

/-- WINS, WDAT: the operand is IMM. -/
theorem decodeCommand_iff_of_imm {i : Byte → Instr}
    (hencode : ∀ imm, encode (i imm) = .word (commandWord op cnt addr imm)) :
    (∃ imm, decodeCommand w = .command (i imm)) ↔ w &&& 0xFFFFFF00 = commandWord op cnt addr 0 := by
  have mask : 0xFFFFFF00 = commandWord (BitVec.allOnes 4) (BitVec.allOnes 4) (BitVec.allOnes 16) 0 := by decide
  rw [mask, and_commandWord_eq_iff]
  simp only [BitVec.and_allOnes]
  simp [decodeCommand_eq_command_iff, hencode, commandWord_eq_iff]

/-- WSTR: the operand is ADDR. -/
theorem decodeCommand_iff_of_addr {i : BitVec 16 → Instr}
    (hencode : ∀ addr, encode (i addr) = .word (commandWord op cnt addr imm)) :
    (∃ addr, decodeCommand w = .command (i addr)) ↔ w &&& 0xFF0000FF = commandWord op cnt 0 imm := by
  have mask : 0xFF0000FF = commandWord (BitVec.allOnes 4) (BitVec.allOnes 4) 0 (BitVec.allOnes 8) := by decide
  rw [mask, and_commandWord_eq_iff]
  simp only [BitVec.and_allOnes]
  simp [decodeCommand_eq_command_iff, hencode, commandWord_eq_iff]

/-- LDGLY: the operands are CNT and ADDR. -/
theorem decodeCommand_iff_of_cnt_addr {i : BitVec 4 → BitVec 16 → Instr}
    (hencode : ∀ cnt addr, encode (i cnt addr) = .word (commandWord op cnt addr imm)) :
    (∃ cnt addr, decodeCommand w = .command (i cnt addr)) ↔ w &&& 0xF00000FF = commandWord op 0 0 imm := by
  have mask : 0xF00000FF = commandWord (BitVec.allOnes 4) 0 0 (BitVec.allOnes 8) := by decide
  rw [mask, and_commandWord_eq_iff]
  simp only [BitVec.and_allOnes]
  simp [decodeCommand_eq_command_iff, hencode, commandWord_eq_iff]

/-- A word is illegal if it spells none of the seven commands: the decoder answers commands alone. -/
theorem decodeCommand_illegal_iff : (∃ why, decodeCommand w = .illegal why) ↔
    decodeCommand w ≠ .command .init ∧ (¬ ∃ imm, decodeCommand w = .command (.wins imm)) ∧
    (¬ ∃ imm, decodeCommand w = .command (.wdat imm)) ∧ (¬ ∃ addr, decodeCommand w = .command (.wstr addr)) ∧
    decodeCommand w ≠ .command .clrh ∧ decodeCommand w ≠ .command .line2 ∧
    (¬ ∃ cnt addr, decodeCommand w = .command (.ldgly cnt addr)) := by
  cases hd : decodeCommand w with
  | illegal why => simp
  | command i =>
    have hi := decodeCommand_isCommand hd
    cases i <;> simp_all [isCommand]

end Rows

/-- Settles O3: row by row; a word is illegal if it spells none of the seven commands. -/
theorem commandRowsMatchMask : Obligations.CommandRowsMatchMask := by
  intro w
  have init : _ ↔ w &&& 0xFFFFFFFF = 0x10000000 := decodeCommand_iff_of_noOperand (i := .init) rfl
  have wins : _ ↔ w &&& 0xFFFFFF00 = 0x20000000 := decodeCommand_iff_of_imm (i := .wins) fun _ => rfl
  have wdat : _ ↔ w &&& 0xFFFFFF00 = 0x30000000 := decodeCommand_iff_of_imm (i := .wdat) fun _ => rfl
  have wstr : _ ↔ w &&& 0xFF0000FF = 0x40000000 := decodeCommand_iff_of_addr (i := .wstr) fun _ => rfl
  have clrh : _ ↔ w &&& 0xFFFFFFFF = 0x50000000 := decodeCommand_iff_of_noOperand (i := .clrh) rfl
  have line2 : _ ↔ w &&& 0xFFFFFFFF = 0x60000000 := decodeCommand_iff_of_noOperand (i := .line2) rfl
  have ldgly : _ ↔ w &&& 0xF00000FF = 0x70000000 := decodeCommand_iff_of_cnt_addr (i := .ldgly) fun _ _ => rfl
  refine ⟨init, wins, wdat, wstr, clrh, line2, ldgly, ?_⟩
  simp only [ne_eq, ← init, ← wins, ← wdat, ← wstr, ← clrh, ← line2, ← ldgly]
  exact decodeCommand_illegal_iff

end Sys2Proof

namespace Sys2Proof.Machine

/-! ### Illegal words (R51, R52, R110) -/

/-- A word whose OP is 0x0 or 0x8..0xF is of no row (R51). -/
theorem decodeCommand_of_reservedOp {w : CommandWord} (h : opField w = 0x0 ∨ 8 ≤ (opField w).toNat) :
    decodeCommand w = .illegal .reservedOp := by
  have reserved : ∀ op : BitVec 4, op = 0x0 ∨ 8 ≤ op.toNat →
      op ≠ 0x1 ∧ op ≠ 0x2 ∧ op ≠ 0x3 ∧ op ≠ 0x4 ∧ op ≠ 0x5 ∧ op ≠ 0x6 ∧ op ≠ 0x7 := by decide
  simp only [decodeCommand, reserved _ h, if_false]

/-- An Idle block answers an illegal word with ILLEGAL_COMMAND, and nothing else changes. -/
theorem step_of_illegalWord {s : State} {w : CommandWord} {ms : List HostMove} {why : Illegal}
    (hnext : NextMove s (.issue w) ms) (hd : decodeCommand w = .illegal why) :
    step s = .next { s with script := ms, statuses := s.statuses ++ [.illegalCommand] } := by
  obtain ⟨hl, hs, hm⟩ := hnext
  rw [step, if_pos hl, advance_of_move hs hm]
  simp only [hostMove, issueWord, hd]
  exact reject_of_idle (s := s.setScript ms) hs .illegalCommand

/-- Settles O7: such a word is illegal. -/
theorem reservedOpcodeRejected : Obligations.ReservedOpcodeRejected :=
  fun _ _ _ hnext hop => step_of_illegalWord hnext (decodeCommand_of_reservedOp hop)

/-- Settles O8: for each OP the field that is not zero fails the decoder's check. -/
theorem nonzeroUnusedFieldRejected : Obligations.NonzeroUnusedFieldRejected := by
  intro s w ms hnext h
  have decoded : decodeCommand w = .illegal .nonzeroField := by
    obtain ⟨hop | hop | hop, hfield⟩ | ⟨hop | hop, hfield⟩ | ⟨hop, hfield⟩ | ⟨hop, hfield⟩ := h
    all_goals simpa [decodeCommand, decodeIf, hop, imp_iff_not_or, or_assoc] using hfield
  exact step_of_illegalWord hnext decoded

/-! ### CLEAR and HOME (R57) -/

/-- Settles O35: the two phases of CLRH are the byte writes of CLEAR and of HOME. -/
theorem clearThenHomeIsClrh : Obligations.ClearThenHomeIsClrh := fun _ hidle =>
  ⟨_, _, _, exec_of_commandTrace_ok rfl hidle rfl, exec_of_commandTrace_ok rfl hidle rfl,
    exec_of_commandTrace_ok rfl hidle rfl, rfl⟩

/-! ### The assembler (R56, R57) -/

/-- The word of a line whose operands are in range exactly if `inRange`; `value` is the number its fields make. -/
theorem assemble_eq_ite {l : AsmLine} {op cnt : BitVec 4} {addr : BitVec 16} {imm : Byte} {inRange : Prop}
    [Decidable inRange] {value : Nat} (hencode : encode (lineInstr l) = .word (commandWord op cnt addr imm))
    (hwf : l.wf = true ↔ inRange)
    (hvalue : inRange → 0x10000000 * op.toNat + 0x1000000 * cnt.toNat + 256 * addr.toNat + imm.toNat = value) :
    assemble l = if inRange then some (BitVec.ofNat 32 value) else none := by
  unfold assemble
  by_cases h : inRange
  · rw [if_pos (hwf.2 h), if_pos h, hencode, commandWord_eq_ofNat, hvalue h]
  · rw [if_neg (mt hwf.1 h), if_neg h]

/-- Settles O9: the fields of each line's command make its number, since an operand in range is not truncated. -/
theorem assemblerEncodesOrRefuses : Obligations.AssemblerEncodesOrRefuses := by
  refine ⟨by decide, fun b => ?wins, fun b => ?wdat, fun a => ?wstr, fun n a => ?ldgly, fun b => ?putc, by decide,
    fun a => ?setdd, fun a => ?setcg, by decide⟩
  case wins => exact assemble_eq_ite rfl decide_eq_true_iff (fun hb => by bv_omega)
  case wdat => exact assemble_eq_ite rfl decide_eq_true_iff (fun hb => by bv_omega)
  case wstr => exact assemble_eq_ite rfl decide_eq_true_iff (fun ha => by bv_omega)
  case ldgly => exact assemble_eq_ite rfl (by simp [AsmLine.wf]) (fun h => by bv_omega)
  case putc => exact assemble_eq_ite rfl decide_eq_true_iff (fun hb => by bv_omega)
  case setdd =>
    exact assemble_eq_ite rfl decide_eq_true_iff (fun ha => by simp [Nat.mod_eq_of_lt (show a < 256 by omega)])
  case setcg =>
    exact assemble_eq_ite rfl decide_eq_true_iff (fun ha => by simp [Nat.mod_eq_of_lt (show a < 256 by omega)])

end Sys2Proof.Machine

/-! The bus family (40_bus_serializer.md): the four events (R58 to R61), the byte write with its settle waits (R63, R64, R67,
R70), and the LCD instruction that a strobe completes (R60, R72). -/

namespace Sys2Proof.Machine

/-! ### The four events -/

/-- Settles O16: the step is `perform` of the event, which writes MODE; RS is driven from it (R12, R19). -/
theorem setModeEvent : Obligations.SetModeEvent := by
  intro s m rest hrun
  refine ⟨_, step_of_running hrun, rfl, ?instruction, ?data⟩
  case instruction => rintro rfl; rfl
  case data => rintro rfl; rfl

/-- Settles O17: the step is `perform` of the event, which writes DOUT; the lines are driven from it (R21). -/
theorem setDataEvent : Obligations.SetDataEvent :=
  fun _ _ _ hrun => ⟨_, step_of_running hrun, rfl, fun _ => rfl⟩

/-- Settles O19: the step is `perform` of the event. -/
theorem waitEvent : Obligations.WaitEvent := fun _ _ _ hrun => step_of_running hrun

/-- The state in which a strobe reaches the LCD: E is high and the strobe has its free value. -/
def duringStrobe (rest : List Event) (s : State) : State :=
  { s with e := 1, seq := .busy rest, fresh := s.fresh + 1 }

@[simp] theorem duringStrobe_dout (rest : List Event) (s : State) : (duringStrobe rest s).dout = s.dout := rfl

/-- A strobe as one step: everything it changes, the LCD being whatever `lcdAfterStrobe` makes of it (R60). -/
theorem step_of_strobe {s : State} {rest : List Event} (hrun : Running s (.strobe :: rest)) :
    step s = .next
      { s with
        e := 0, seq := .busy rest, events := s.events ++ [.strobe], fresh := s.fresh + 1,
        lcd := lcdAfterStrobe (duringStrobe rest s) } := step_of_running hrun

/-- Settles O18: an LCD in step takes in the nibble, or completes its byte with it. -/
theorem strobeEvent : Obligations.StrobeEvent := by
  intro s rest hrun
  refine ⟨_, step_of_strobe hrun, rfl, rfl, fun hsync hbusy hiface => ?high, fun h hsync hbusy hiface hmode => ?low⟩
  case high => exact lcdAfterStrobe_highNibble (s := duringStrobe rest s) hsync hbusy hiface
  case low =>
    dsimp only
    rw [lcdAfterStrobe_lowNibble (s := duringStrobe rest s) hsync hbusy hiface]
    exact (lcdAfterByte_data_fields (s := duringStrobe rest s) hmode (.fourBit none) h s.dout).symm

/-- Settles O39: the strobe completes the byte, and `exec` of its instruction and the LCD both apply the `lcdEffect`. -/
theorem stepRunsLcdInstruction : Obligations.StepRunsLcdInstruction := by
  intro s rest h i hrun hsync hmode hbusy hiface hd
  rw [step_of_strobe hrun, lcdAfterStrobe_lowNibble (s := duringStrobe rest s) hsync hbusy hiface,
    duringStrobe_dout, lcdAfterByte_instruction (s := duringStrobe rest s) hmode _ hd,
    exec_lcd (decodeLcdNibbles_not_command hd)]
  rfl

/-! ### A part of a trace, run -/

/-- The events of `tr` run in order, with `rest` still ahead after them; MODE and DOUT are what the last SetMode and
SetData of `tr` wrote, and nothing else of the block changes (R23). -/
theorem runSteps_prefix {s : State} {tr rest : List Event} (hrun : Running s (tr ++ rest)) :
    ∃ t, runSteps tr.length s = .next t ∧ t.seq = .busy rest ∧ t.events = s.events ++ tr ∧
      t.mode = modeAfter s.mode tr ∧ t.dout = doutAfter s.dout tr ∧ t.statuses = s.statuses ∧ t.script = s.script ∧
      t.opmem = s.opmem ∧ t.cfg = s.cfg := by
  induction tr generalizing s with
  | nil => exact ⟨s, rfl, hrun.2, by simp, rfl, rfl, rfl, rfl, rfl, rfl⟩
  | cons ev tr ih =>
    obtain ⟨t, ht, hseq, hevents, hmode, hdout, hstatuses, hscript, hmem, hcfg⟩ :=
      ih (s := perform ev (s.setSeq (.busy (tr ++ rest)))) ⟨by simpa using hrun.1, by simp⟩
    refine ⟨t, (runSteps_of_step (step_of_running hrun) _).trans ht, hseq, by simpa using hevents, ?_, ?_,
      by simpa using hstatuses, by simpa using hscript, by simpa using hmem, by simpa using hcfg⟩
    · rw [hmode, perform_mode, setSeq_mode, ← modeAfter_cons]
    · rw [hdout, perform_dout, setSeq_dout, ← doutAfter_cons]

/-! ### The byte write -/

/-- A byte write is its eight events (R63). -/
theorem byteWrite_eq (c : Config) (m : Mode) (b : Byte) : byteWrite c m b =
    [.setMode m, .setData (hi b), .strobe, .wait c.tSettle,
     .setMode m, .setData (lo b), .strobe, .wait (settle c m b)] := rfl

/-- Settles O20: the eight events run as the first part of the trace ahead. -/
theorem byteWriteRuns : Obligations.ByteWriteRuns :=
  fun s m b _ hrun => ⟨byteWrite_eq s.cfg m b, runSteps_prefix hrun⟩

/-- Settles O22: the two byte writes run as the first part of the trace ahead; no event of either is left out. -/
theorem byteWritesAreNotMerged : Obligations.ByteWritesAreNotMerged := by
  intro s m m' b b' rest hrun
  rw [← List.append_assoc] at hrun
  obtain ⟨t, ht, hseq, hevents, -⟩ := runSteps_prefix hrun
  exact ⟨t, ht, hseq, hevents, rfl, rfl⟩

/-- Settles O21: a legal configuration has the wait for CLEAR_DISPLAY longer than the other. -/
theorem settleWaits : Obligations.SettleWaits := by
  intro c m b
  refine ⟨fun h => if_pos h, fun h => if_neg h, fun hl => ?_⟩
  have hlt := Config.tSettle_lt_tClear hl
  by_cases h : m = .instruction ∧ b = 0x01
  · rw [settle, clearDisplayByte, if_pos h]
    exact iff_of_true hlt h
  · rw [settle, clearDisplayByte, if_neg h]
    exact iff_of_false (Nat.lt_irrefl _) h

/-- A nibble transfer brings the LCD its nibble with its mode, whatever was on the pins (R60, R62). -/
theorem latched_xfer_append (m m' : Mode) (d n : Nibble) (w : Nat) (rest : List Event) :
    latched m' d (xfer m n w ++ rest) = (m, n) :: latched m n rest := rfl

/-- Settles O23: one nibble for each of the two transfers. -/
theorem byteWriteLatchesTwoNibbles : Obligations.ByteWriteLatchesTwoNibbles := by
  intro c m m' d b
  refine ⟨?_, rfl⟩
  rw [byteWrite, latched_xfer_append, ← List.append_nil (xfer m (lo b) _), latched_xfer_append]
  rfl

/-! ### Words of the worked examples -/

/-- Settles O5. -/
theorem specWordsDecode : Obligations.SpecWordsDecode := by
  unfold Obligations.SpecWordsDecode
  decide

end Sys2Proof.Machine

/-! The LCD instruction family (41_lcd_instruction_codes.md): the classes of instruction bytes by their most significant 1 bit
(R72), what each instruction makes of the LCD (R73, R74), and a strobe that an LCD in 8-bit mode takes as a whole byte (R78,
R83, R130). -/

namespace Sys2Proof.Machine

/-! ### A strobe in 8-bit mode (R78, R83) -/

/-- To an LCD in step and in 8-bit mode the strobe brings a byte whose lower nibble the undriven lines carry (R78). -/
theorem lcdAfterStrobe_eightBit {s : State} (hsync : s.sync = .inStep) (hbusy : s.lcd.busy = false)
    (hiface : s.lcd.iface = .eightBit) :
    lcdAfterStrobe s = lcdAfterByte s .eightBit s.dout (Config.undrivenNibble s.fresh) := by
  rw [lcdAfterStrobe_inStep hsync hbusy, afterNibble, hiface]; rfl

/-- The bytes a strobe can complete for an LCD that WINS left in 8-bit mode (R130(a)): a nibble with what the undriven lines
carry, or, for the WINS itself, its second nibble. -/
theorem lcdAfterStrobe_held {s : State} (hsync : s.sync = .eightBit) (hbusy : s.lcd.busy = false) {b : Byte}
    (hread : s.lcd.iface = .eightBit ∧ b = s.dout ++ Config.undrivenNibble s.fresh ∨
      ∃ h, s.lcd.iface = .fourBit (some h) ∧ b = h ++ s.dout) :
    ∃ h l, b = joinNibbles h l ∧ lcdAfterStrobe s = heldInEightBit s h l := by
  obtain ⟨hiface, hb⟩ | ⟨h, hiface, hb⟩ := hread
  · refine ⟨s.dout, Config.undrivenNibble s.fresh, hb, ?_⟩
    simp [lcdAfterStrobe, afterNibble, takeNibble, hsync, hbusy, hiface]
  · refine ⟨h, s.dout, hb, ?_⟩
    simp [lcdAfterStrobe, afterNibble, takeNibble, hsync, hbusy, hiface]

/-- A byte read while WINS has left the LCD in 8-bit mode keeps the mode and stands in its register. -/
theorem heldInEightBit_fields (s : State) (h l : Nibble) :
    (heldInEightBit s h l).iface = .eightBit ∧
      (s.mode = .instruction → (heldInEightBit s h l).ir = joinNibbles h l) ∧
      (s.mode = .data → (heldInEightBit s h l).dr = joinNibbles h l) := by
  cases hmode : s.mode with
  | instruction => rw [heldInEightBit, hmode]; exact ⟨rfl, fun _ => rfl, nofun⟩
  | data => rw [heldInEightBit, hmode]; exact ⟨rfl, nofun, fun _ => rfl⟩

@[simp] theorem duringStrobe_fresh (rest : List Event) (s : State) : (duringStrobe rest s).fresh = s.fresh + 1 := rfl

section EightBitStrobe
variable {s : State} {rest : List Event} (hrun : Running s (.strobe :: rest)) (hsync : s.sync = .inStep)
  (hbusy : s.lcd.busy = false) (hiface : s.lcd.iface = .eightBit)
include hrun hsync hbusy hiface

/-- An instruction byte read in 8-bit mode runs as its instruction. -/
theorem step_of_strobe_eightBit (hmode : s.mode = .instruction) {i : Instr}
    (hd : decodeLcdNibbles s.dout (Config.undrivenNibble (s.fresh + 1)) = some i) :
    step s = exec i
      { s with
        e := 0, seq := .busy rest, events := s.events ++ [.strobe], fresh := s.fresh + 1,
        lcd := { s.lcd with ir := s.dout ++ Config.undrivenNibble (s.fresh + 1) } } := by
  have hlcd : { s.lcd with iface := .eightBit } = s.lcd := by rw [← hiface]
  rw [step_of_strobe hrun, lcdAfterStrobe_eightBit (s := duringStrobe rest s) hsync hbusy hiface,
    duringStrobe_dout, duringStrobe_fresh, lcdAfterByte_instruction (s := duringStrobe rest s) hmode _ hd,
    exec_lcd (decodeLcdNibbles_not_command hd), ← hlcd]
  rfl

/-- High nibble 0x2 or 0x3, whatever the lower nibble, is a FUNCTION_SET: its lowest bit is DL, and the address counter and
the RAMs stay. -/
theorem step_of_functionSet_eightBit (hmode : s.mode = .instruction) {eightBit : Bool}
    (hdout : s.dout = if eightBit then 0x3 else 0x2) :
    ∃ t, step s = .next t ∧ t.lcd.iface = (if eightBit then .eightBit else .fourBit none) ∧
      t.lcd.ac = s.lcd.ac ∧ t.lcd.ddram = s.lcd.ddram ∧ t.lcd.cgram = s.lcd.cgram := by
  have hclass (l : Nibble) : decodeLcdNibbles s.dout l =
      some (.functionSet eightBit (l.getLsbD 3) (l.getLsbD 2) (l.extractLsb' 0 2)) := by
    rw [hdout]
    cases eightBit <;> rfl
  rw [step_of_strobe_eightBit hrun hsync hbusy hiface hmode (hclass _), exec_lcd rfl]
  exact ⟨_, rfl, rfl, rfl, rfl, rfl⟩

/-- A data byte read in 8-bit mode is written as `writeData` says. -/
theorem step_of_data_eightBit (hmode : s.mode = .data) {b : Byte}
    (hb : b = s.dout ++ Config.undrivenNibble (s.fresh + 1)) :
    step s = .next
      { s with
        e := 0, seq := .busy rest, events := s.events ++ [.strobe], fresh := s.fresh + 1,
        lcd := writeData (s.fresh + 1) b { s.lcd with dr := b } } := by
  have hlcd : { s.lcd with iface := .eightBit } = s.lcd := by rw [← hiface]
  rw [step_of_strobe hrun, lcdAfterStrobe_eightBit (s := duringStrobe rest s) hsync hbusy hiface,
    lcdAfterByte_data (s := duringStrobe rest s) hmode, hb, ← hlcd]
  rfl

end EightBitStrobe

/-- Short of the end it moves to, the counter in DDRAM moves by one with a data byte, by I/D (R37, R73). -/
theorem writeData_ac_of_ddram (fresh : Nat) {l : Lcd} {a : BitVec 7} (hac : l.ac = .ddram a) (b : Byte) :
    (l.increment = true → a ≠ 0x7F → (writeData fresh b l).ac = .ddram (a + 1)) ∧
      (l.increment = false → a ≠ 0 → (writeData fresh b l).ac = .ddram (a - 1)) := by
  rw [writeData_ac, hac]
  constructor
  · intro hinc ha
    rw [hinc, moveCounter_ddram_up fresh ha]
  · intro hinc ha
    rw [hinc, moveCounter_ddram_down fresh ha]

/-- Short of the end it moves to, the counter in CGRAM moves by one with a data byte, by I/D (R37, R73). -/
theorem writeData_ac_of_cgram (fresh : Nat) {l : Lcd} {a : BitVec 6} (hac : l.ac = .cgram a) (b : Byte) :
    (l.increment = true → a ≠ 0x3F → (writeData fresh b l).ac = .cgram (a + 1)) ∧
      (l.increment = false → a ≠ 0 → (writeData fresh b l).ac = .cgram (a - 1)) := by
  rw [writeData_ac, hac]
  constructor
  · intro hinc ha
    rw [hinc, moveCounter_cgram_up fresh ha]
  · intro hinc ha
    rw [hinc, moveCounter_cgram_down fresh ha]

/-- Settles O50: an INIT's strobe runs the byte's instruction or writes its data byte; since a WINS of 0x30..0x3F the byte is
held in its register. -/
theorem strobeInEightBitMode : Obligations.StrobeInEightBitMode := by
  refine ⟨fun s rest hrun hsync hmode hbusy hiface => ?instruction,
    fun s rest b hrun hsync hmode hbusy hiface hb => ?data, fun s rest b hrun hsync hbusy hread => ?held⟩
  case instruction =>
    refine ⟨?_, fun h3 => ?_, fun h2 => ?_⟩
    · rintro x i rfl hd
      exact step_of_strobe_eightBit hrun hsync hbusy hiface hmode hd
    · exact step_of_functionSet_eightBit hrun hsync hbusy hiface hmode (eightBit := true) h3
    · exact step_of_functionSet_eightBit hrun hsync hbusy hiface hmode (eightBit := false) h2
  case data =>
    refine ⟨_, step_of_data_eightBit hrun hsync hbusy hiface hmode hb, (writeData_iface _ b _).trans hiface,
      storeAtCounter_dr b _, rfl, fun a hac => ?ddram, fun a hac => ?cgram⟩
    case ddram =>
      obtain ⟨hcells, hcgram⟩ := writeData_of_ddram (s.fresh + 1) (l := { s.lcd with dr := b }) hac b
      exact ⟨hcells, hcgram, writeData_ac_of_ddram (s.fresh + 1) (l := { s.lcd with dr := b }) hac b⟩
    case cgram =>
      obtain ⟨hcells, hddram⟩ := writeData_of_cgram (s.fresh + 1) (l := { s.lcd with dr := b }) hac b
      exact ⟨hcells, hddram, writeData_ac_of_cgram (s.fresh + 1) (l := { s.lcd with dr := b }) hac b⟩
  case held =>
    obtain ⟨h, l, hb, hlcd⟩ := lcdAfterStrobe_held (s := duringStrobe rest s) hsync hbusy hread
    obtain ⟨hiface, hir, hdr⟩ := heldInEightBit_fields (duringStrobe rest s) h l
    refine ⟨_, step_of_strobe hrun, ?_⟩
    rw [hlcd, hb]
    exact ⟨hiface, hsync, hir, hdr⟩

/-! ### The classes of instruction bytes (R72) -/

/-- The length in bits of the bytes of an LCD instruction's class: the place of their most significant 1 bit, from 1 on. -/
def classBits : Instr → Nat
  | .clearDisplay => 1
  | .returnHome _ => 2
  | .entryModeSet _ _ => 3
  | .displayControl _ _ _ => 4
  | .cursorDisplayShift _ _ _ => 5
  | .functionSet _ _ _ _ => 6
  | .setCgramAddr _ => 7
  | .setDdramAddr _ => 8
  | .init | .wins _ | .wdat _ | .wstr _ | .clrh | .line2 | .ldgly _ _ => 0

/-- "A byte belongs to the class of its most significant 1 bit" (R72). -/
theorem size_eq_classBits : ∀ b : Byte, b.toNat.size = (decodeLcdByte b).elim 0 classBits := by decide

/-- So a class with the most significant 1 bit at bit `n` lies in one range. -/
theorem range_of_decodeLcdByte {b : Byte} {i : Instr} {n : Nat} (hd : decodeLcdByte b = some i)
    (hclass : classBits i = n + 1) : 2 ^ n ≤ b.toNat ∧ b.toNat < 2 ^ (n + 1) := by
  have hsize : b.toNat.size = n + 1 := by rw [size_eq_classBits, hd, ← hclass]; rfl
  rw [← Nat.lt_size, ← Nat.size_le]
  omega

/-- Settles O4: the ranges of different places of the most significant 1 bit are disjoint. -/
theorem lcdClassesByValueRange : Obligations.LcdClassesByValueRange := by
  intro b
  cases hd : decodeLcdByte b with
  | none =>
    have hzero : b.toNat = 0 := by rw [← Nat.size_eq_zero, size_eq_classBits, hd]; rfl
    simp [hzero]
  | some i =>
    cases i with
    | init | wins code | wdat d | wstr addr | clrh | line2 | ldgly cnt addr => cases decodeLcdNibbles_not_command hd
    | _ =>
      obtain ⟨hlow, hhigh⟩ := range_of_decodeLcdByte hd rfl
      simp at hlow hhigh ⊢
      omega

/-! ### What each instruction makes of the LCD (R73, R74) -/

/-- Settles O47: each instruction is its `lcdEffect`, and a cleared DDRAM is 128 spaces. -/
theorem lcdAddressInstructions : Obligations.LcdAddressInstructions := by
  intro s
  refine ⟨⟨_, exec_lcd rfl s, fun a ha => ?_, rfl, rfl, rfl⟩, fun x => ⟨_, exec_lcd rfl s, rfl, rfl, rfl⟩,
    fun a => ⟨_, exec_lcd rfl s, rfl, rfl⟩, fun a => ⟨_, exec_lcd rfl s, rfl, rfl⟩⟩
  exact Vector.getElem_replicate ha

/-- Settles O48: each instruction is its `lcdEffect`; for FUNCTION_SET the interface depends on DL. -/
theorem lcdSettingInstructions : Obligations.LcdSettingInstructions := by
  intro s
  refine ⟨fun n h => ⟨_, exec_lcd rfl s, rfl, rfl, rfl, rfl⟩, fun d c k => ⟨_, exec_lcd rfl s, rfl, rfl, rfl, rfl, rfl⟩,
    fun e n f x => ⟨_, exec_lcd rfl s, rfl, rfl, ?_, ?_, rfl, rfl⟩⟩
  · rintro rfl; rfl
  · rintro rfl; rfl

/-- The counter stays in DDRAM and, short of the end it moves to, moves by one. -/
theorem moveCounter_ddram (fresh : Nat) (right : Bool) (a : BitVec 7) :
    ∃ a', moveCounter fresh right (.ddram a) = .ddram a' ∧
      (right = true → a.toNat < 0x7F → a'.toNat = a.toNat + 1) ∧
      (right = false → 0 < a.toNat → a'.toNat + 1 = a.toNat) := by
  cases right with
  | true =>
    by_cases ha : a = 0x7F
    · exact ⟨_, if_pos ha, fun _ hlt => absurd hlt (by simp [ha]), nofun⟩
    · exact ⟨a + 1, moveCounter_ddram_up fresh ha, fun _ hlt => by bv_omega, nofun⟩
  | false =>
    by_cases ha : a = 0
    · exact ⟨_, if_pos ha, nofun, fun _ hpos => absurd hpos (by simp [ha])⟩
    · exact ⟨a - 1, moveCounter_ddram_down fresh ha, nofun, fun _ hpos => by bv_omega⟩

/-- The counter stays in CGRAM and, short of the end it moves to, moves by one. -/
theorem moveCounter_cgram (fresh : Nat) (right : Bool) (a : BitVec 6) :
    ∃ a', moveCounter fresh right (.cgram a) = .cgram a' ∧
      (right = true → a.toNat < 0x3F → a'.toNat = a.toNat + 1) ∧
      (right = false → 0 < a.toNat → a'.toNat + 1 = a.toNat) := by
  cases right with
  | true =>
    by_cases ha : a = 0x3F
    · exact ⟨_, if_pos ha, fun _ hlt => absurd hlt (by simp [ha]), nofun⟩
    · exact ⟨a + 1, moveCounter_cgram_up fresh ha, fun _ hlt => by bv_omega, nofun⟩
  | false =>
    by_cases ha : a = 0
    · exact ⟨_, if_pos ha, nofun, fun _ hpos => absurd hpos (by simp [ha])⟩
    · exact ⟨a - 1, moveCounter_cgram_down fresh ha, nofun, fun _ hpos => by bv_omega⟩

/-- Settles O49: the `lcdEffect` of either form moves one of the two, the counter within its RAM. -/
theorem lcdShiftInstruction : Obligations.LcdShiftInstruction := by
  intro s r x
  refine ⟨⟨_, exec_lcd rfl s, rfl, rfl⟩, ⟨_, exec_lcd rfl s, rfl, fun a hac => ?ddram, fun a hac => ?cgram⟩⟩
  case ddram =>
    obtain ⟨a', hcounter, hmove⟩ := moveCounter_ddram s.fresh r a
    rw [← hac] at hcounter
    exact ⟨a', hcounter, hmove⟩
  case cgram =>
    obtain ⟨a', hcounter, hmove⟩ := moveCounter_cgram s.fresh r a
    rw [← hac] at hcounter
    exact ⟨a', hcounter, hmove⟩

end Sys2Proof.Machine

/-! The initialization family (42_init_fsm.md): the FSM of INIT (R80), what every trace counts (R134), that INIT alone makes
the LCD known (R125, R126), and that it brings an LCD in any state to one known state (R83). -/

namespace Sys2Proof

/-! ### The configured instruction bytes of a legal configuration (R8, R76) -/

section Legal
variable {c : Config} (hl : c.legal = true)
include hl

theorem Config.line2Cmd_min : 0x80 ≤ c.line2Cmd.toNat := by
  obtain ⟨-, -, -, -, -, hmin, -⟩ := c.legal_iff.1 hl
  exact hmin

theorem Config.initEntryMode_range : 0x04 ≤ c.initEntryMode.toNat ∧ c.initEntryMode.toNat ≤ 0x07 := by
  obtain ⟨-, -, -, -, -, -, -, hmin, hmax, -⟩ := c.legal_iff.1 hl
  exact ⟨hmin, hmax⟩

theorem Config.initDisplayControl_range :
    0x08 ≤ c.initDisplayControl.toNat ∧ c.initDisplayControl.toNat ≤ 0x0F := by
  obtain ⟨-, -, -, -, -, -, -, -, -, hmin, hmax⟩ := c.legal_iff.1 hl
  exact ⟨hmin, hmax⟩

end Legal

end Sys2Proof

namespace Sys2Proof.Machine

/-! ### The initialization FSM (R80) -/

/-- The FSM is done after its ten states, whatever fuel is left. -/
theorem initFsmTrace_start (c : Config) (extra : Nat) : initFsmTrace c (10 + extra) .start = initTrace c := by
  rw [Nat.add_comm]
  simp [initFsmTrace, initNext, initAction, initTrace, clearHomeTrace]

/-- Settles O33: the trace INIT is accepted with is the one the FSM emits. -/
theorem initFsmEmitsInitTrace : Obligations.InitFsmEmitsInitTrace := by
  rintro s c extra hidle rfl
  rw [initFsmTrace_start]
  exact exec_of_commandTrace_ok rfl hidle rfl

/-! ### What every trace counts (R88, R91, R106, R134) -/

theorem totalWait_append (xs ys : List Event) : totalWait (xs ++ ys) = totalWait xs + totalWait ys := by
  induction xs with
  | nil => simp [totalWait]
  | cons ev xs ih => cases ev <;> simp [totalWait, ih, Nat.add_assoc]

theorem HasCounts.append {xs ys : List Event} {events events' strobes strobes' waits waits' ms ms' : Nat}
    (hx : HasCounts xs events strobes waits ms) (hy : HasCounts ys events' strobes' waits' ms') :
    HasCounts (xs ++ ys) (events + events') (strobes + strobes') (waits + waits') (ms + ms') := by
  obtain ⟨rfl, rfl, rfl, rfl⟩ := hx
  obtain ⟨rfl, rfl, rfl, rfl⟩ := hy
  exact ⟨List.length_append, List.countP_append, List.countP_append, totalWait_append xs ys⟩

/-- A trace has the counts of `k` byte writes none of which sends CLEAR_DISPLAY: two strobes each, and every wait is
T_SETTLE_MS. -/
abbrev CountsAsWrites (c : Config) (tr : List Event) (k : Nat) : Prop :=
  HasCounts tr (8 * k) (2 * k) (2 * k) (2 * k * c.tSettle)

section Counts
variable (c : Config)

theorem CountsAsWrites.append {c : Config} {xs ys : List Event} {j k : Nat} (hx : CountsAsWrites c xs j)
    (hy : CountsAsWrites c ys k) : CountsAsWrites c (xs ++ ys) (j + k) := by
  simpa only [CountsAsWrites, Nat.mul_add, Nat.add_mul] using HasCounts.append hx hy

theorem countsAsWrites_byteWrite {m : Mode} {b : Byte} (h : ¬ (m = .instruction ∧ b = 0x01)) :
    CountsAsWrites c (byteWrite c m b) 1 := by
  obtain ⟨-, hsettle, -⟩ := settleWaits c m b
  refine ⟨rfl, rfl, rfl, ?_⟩
  calc totalWait (byteWrite c m b) = c.tSettle + settle c m b := rfl
    _ = 2 * 1 * c.tSettle := by rw [hsettle h]; omega

theorem countsAsWrites_instruction {b : Byte} (h : b ≠ 0x01) : CountsAsWrites c (byteWrite c .instruction b) 1 :=
  countsAsWrites_byteWrite c fun hb => h hb.2

/-- An instruction byte of a class above CLEAR_DISPLAY's. -/
theorem countsAsWrites_instruction_of_lt {b : Byte} (h : 0x01 < b.toNat) :
    CountsAsWrites c (byteWrite c .instruction b) 1 :=
  countsAsWrites_instruction c fun hb => by simp [hb] at h

theorem countsAsWrites_dataByte (d : Byte) : CountsAsWrites c (byteWrite c .data d) 1 :=
  countsAsWrites_byteWrite c fun hd => nomatch hd.1

/-- The data bytes of a string, or the rows of a glyph. -/
theorem countsAsWrites_data (bytes : List Byte) : CountsAsWrites c (bytes.flatMap (byteWrite c .data)) bytes.length := by
  induction bytes with
  | nil => exact ⟨rfl, rfl, rfl, (Nat.zero_mul _).symm⟩
  | cons b bytes ih =>
    rw [List.flatMap_cons, List.length_cons, Nat.add_comm]
    exact (countsAsWrites_dataByte c b).append ih

/-- No CGRAM slot's address instruction is CLEAR_DISPLAY: it has bit 6 set (R75). -/
theorem cgramSlot_ne_clearDisplay (k : Nat) : cgramSlot k ≠ 0x01 := by
  have bit6 : ∀ x : Byte, 0x40 ||| x ≠ 0x01 := by decide
  exact bit6 _

/-- A glyph is nine byte writes, its address and its eight rows (R97). -/
theorem countsAsWrites_glyphsTrace (k : Nat) {n : Nat} {rows : List Byte} (hrows : rows.length = 8 * n) :
    CountsAsWrites c (glyphsTrace c k n rows) (9 * n) := by
  induction n generalizing k rows with
  | zero => exact ⟨rfl, rfl, rfl, (Nat.zero_mul _).symm⟩
  | succ n ih =>
    have hglyph : (rows.take Config.glyphRows).length = 8 := by simp [Config.glyphRows, hrows]
    have hrest : (rows.drop Config.glyphRows).length = 8 * n := by simp [Config.glyphRows, hrows]; omega
    have haddr := countsAsWrites_instruction c (cgramSlot_ne_clearDisplay k)
    have hdata := countsAsWrites_data c (rows.take Config.glyphRows)
    rw [hglyph] at hdata
    rw [glyphsTrace, show 9 * (n + 1) = 1 + 8 + 9 * n by omega]
    exact (haddr.append hdata).append (ih (k + 1) hrest)

theorem countsAsWrites_ldglyTrace {n : Nat} (hn : 1 ≤ n) {rows : List Byte} (hrows : rows.length = 8 * n) :
    CountsAsWrites c (ldglyTrace c n rows) (9 * n + 1) := by
  rw [ldglyTrace_of_ne_zero c (by omega)]
  exact (countsAsWrites_glyphsTrace c 0 hrows).append (countsAsWrites_instruction c (by decide))

theorem hasCounts_clearDisplay : HasCounts (byteWrite c .instruction 0x01) 8 2 2 (c.tSettle + c.tClear) :=
  ⟨rfl, rfl, rfl, rfl⟩

theorem hasCounts_clearHomeTrace : HasCounts (clearHomeTrace c) 16 4 4 (3 * c.tSettle + c.tClear) := by
  obtain ⟨hevents, hstrobes, hwaits, hms⟩ :=
    (hasCounts_clearDisplay c).append (countsAsWrites_instruction c (b := returnHomeByte) (by decide))
  exact ⟨hevents, hstrobes, hwaits, hms.trans (by omega)⟩

/-- INIT is a wait, five byte writes, the clear-and-home phase and two more SetMode (R79). -/
theorem hasCounts_initTrace (hl : c.legal = true) :
    HasCounts (initTrace c) 59 14 15 (c.tPowerOn + 13 * c.tSettle + c.tClear) := by
  obtain ⟨hentry, -⟩ := Config.initEntryMode_range hl
  obtain ⟨hdisplay, -⟩ := Config.initDisplayControl_range hl
  have start : HasCounts [.setMode .instruction, .wait c.tPowerOn] 2 0 1 c.tPowerOn := ⟨rfl, rfl, rfl, rfl⟩
  have last : HasCounts [.setMode .data] 1 0 0 0 := ⟨rfl, rfl, rfl, rfl⟩
  obtain ⟨hevents, hstrobes, hwaits, hms⟩ :=
    ((((((start.append (countsAsWrites_instruction c (b := fsResetA) (by decide))).append
      (countsAsWrites_instruction c (b := fsResetB) (by decide))).append
      (countsAsWrites_instruction c (b := fs4Bit2Line) (by decide))).append
      (countsAsWrites_instruction_of_lt c (b := c.initEntryMode) (by omega))).append
      (countsAsWrites_instruction_of_lt c (b := c.initDisplayControl) (by omega))).append
      (hasCounts_clearHomeTrace c)).append last
  exact ⟨hevents, hstrobes, hwaits, hms.trans (by omega)⟩

end Counts

/-- Settles O32: every row is a number of byte writes, CLEAR_DISPLAY's with its longer wait; INIT's SetData and SetMode events
do not depend on the configuration. -/
theorem traceCounts : Obligations.TraceCounts := by
  intro c hl
  refine ⟨⟨hasCounts_initTrace c hl, rfl, rfl, rfl, rfl⟩, fun code h => countsAsWrites_instruction c h,
    hasCounts_clearDisplay c, countsAsWrites_dataByte c, countsAsWrites_data c,
    hasCounts_clearHomeTrace c, countsAsWrites_instruction_of_lt c (by have hmin := Config.line2Cmd_min hl; omega),
    fun n rows hn _ hrows => ?_, fun rows => ⟨rfl, rfl, rfl, rfl⟩⟩
  obtain ⟨hevents, hstrobes, hwaits, hms⟩ := countsAsWrites_ldglyTrace c hn hrows
  have twice : 2 * (9 * n + 1) = 18 * n + 2 := by omega
  rw [twice] at hstrobes hwaits hms
  exact ⟨hevents.trans (by omega), hstrobes, hwaits, hms⟩

/-! ### Only INIT makes the LCD known (R125, R126) -/

/-- What a step makes of `sync`: a command issued makes it what the command says, a power cycle makes it unspecified, and
nothing else touches it. -/
theorem step_sync {s t : State} (h : step s = .next t) : t.sync = s.sync ∨ s.seq = .idle ∧ ∃ ms,
    (∃ w i, s.script = .issue w :: ms ∧ encode i = .word w ∧ t.sync = syncAfter i s.sync) ∨
    s.script = .powerCycle :: ms ∧ t.sync = .unspecified := by
  obtain ⟨-, ⟨ev, rest, -, rfl⟩ | ⟨-, rfl⟩ | ⟨-, -, rfl⟩ | ⟨hidle, w, ms, hm, hw⟩ | ⟨-, a, b, ms, -, -, rfl⟩ |
    ⟨hidle, ms, hm, rfl⟩⟩ := step_cases h
  · exact .inl (by simp)
  · exact .inl rfl
  · exact .inl rfl
  · obtain ⟨-, ⟨i, tr, hd, rfl⟩ | rfl | rfl⟩ := issueWord_next hw
    · exact .inr ⟨hidle, ms, .inl ⟨w, i, hm, encode_of_decodeCommand hd, rfl⟩⟩
    · exact .inl rfl
    · exact .inl rfl
  · exact .inl rfl
  · exact .inr ⟨hidle, ms, .inr ⟨hm, rfl⟩⟩

/-- INIT alone ends what a WINS of 0x30..0x3F left (R130). -/
theorem syncAfter_eightBit {i : Instr} (h : syncAfter i .eightBit ≠ .eightBit) : i = .init := by
  cases i with
  | init => rfl
  | _ => exact absurd rfl h

/-- While no INIT has been issued a strobe leaves the LCD in any state (R126). -/
theorem lcdAfterStrobe_unspecified {s : State} (hsync : s.sync = .unspecified) :
    lcdAfterStrobe s = Config.anyLcd s.fresh := by
  simp [lcdAfterStrobe, hsync]

/-- Settles O60: of the things that change `sync` only INIT makes it `inStep`, and only INIT or a power cycle ends
`eightBit`. -/
theorem onlyInitBringsLcdBack : Obligations.OnlyInitBringsLcdBack := by
  intro s t h
  refine ⟨fun hs ht => ?known, fun hs ht => ?held, fun rest hs hseq => ?strobe⟩
  case known =>
    obtain heq | ⟨hidle, ms, ⟨w, i, hm, hw, heq⟩ | ⟨-, heq⟩⟩ := step_sync h
    · exact absurd (heq.symm.trans ht) hs
    · obtain rfl := (syncAfter_inStep (heq.symm.trans ht)).resolve_right hs
      cases hw
      exact ⟨hidle, ms, hm⟩
    · exact nomatch heq.symm.trans ht
  case held =>
    obtain heq | ⟨hidle, ms, ⟨w, i, hm, hw, heq⟩ | ⟨hm, -⟩⟩ := step_sync h
    · exact absurd (heq.trans hs) ht
    · rw [heq, hs] at ht
      obtain rfl := syncAfter_eightBit ht
      cases hw
      exact ⟨hidle, ms, .inl hm⟩
    · exact ⟨hidle, ms, .inr hm⟩
  case strobe =>
    obtain ⟨hl, -⟩ := step_cases h
    rw [step_of_strobe ⟨hl, hseq⟩, lcdAfterStrobe_unspecified (s := duringStrobe rest s) hs] at h
    obtain rfl := Host.Outcome.next.inj h
    exact ⟨rfl, hs⟩

/-! ### The function reset: from any interface to 4 bits (R83) -/

/-- How many nibbles 0x3 sent as instructions bring an interface in this state to 8-bit mode (R83): each is half of a byte
0x33 in 4-bit mode, or ends a byte whose other half came before. -/
def resetDistance : Interface → Nat
  | .eightBit => 0
  | .fourBit (some h) => if h = 0x3 then 1 else 3
  | .fourBit none => 2

theorem eq_eightBit_of_resetDistance {iface : Interface} (h : resetDistance iface = 0) : iface = .eightBit := by
  match iface with
  | .eightBit => rfl
  | .fourBit (some n) =>
    rw [resetDistance] at h
    split at h <;> cases h
  | .fourBit none => cases h

theorem resetDistance_le (iface : Interface) : resetDistance iface ≤ 3 := by
  match iface with
  | .eightBit => exact Nat.zero_le 3
  | .fourBit (some n) =>
    rw [resetDistance]
    split <;> omega
  | .fourBit none => decide

/-- Whichever instruction a byte completed in 4-bit mode is, it leaves no nibble pending. -/
theorem resetDistance_lcdEffect (i : Instr) (fresh : Nat) {l : Lcd} (h : l.iface = .fourBit none) :
    resetDistance (lcdEffect i fresh l).iface ≤ 2 := by
  have kept : resetDistance l.iface ≤ 2 := by rw [h]; decide
  cases i with
  | functionSet eightBit n f x =>
    cases eightBit with
    | false => exact Nat.le_refl 2
    | true => exact Nat.zero_le 2
  | _ => exact kept

/-- High nibble 0x2 or 0x3 is a FUNCTION_SET whose DL is the nibble's lowest bit (R72, R73). -/
theorem decodeLcdNibbles_functionSet (eightBit : Bool) (l : Nibble) :
    decodeLcdNibbles (if eightBit then 0x3 else 0x2) l =
      some (.functionSet eightBit (l.getLsbD 3) (l.getLsbD 2) (l.extractLsb' 0 2)) := by
  cases eightBit <;> rfl

section Strobe
variable {s : State} (hsync : s.sync = .inStep) (hbusy : s.lcd.busy = false) (hmode : s.mode = .instruction)
include hsync hbusy hmode

/-- An LCD in 8-bit mode reads the nibble 0x2 or 0x3 as a FUNCTION_SET, whatever the undriven lines carry (R78, R83). -/
theorem iface_lcdAfterStrobe_functionSet (hiface : s.lcd.iface = .eightBit) {eightBit : Bool}
    (hdout : s.dout = if eightBit then 0x3 else 0x2) :
    (lcdAfterStrobe s).iface = if eightBit then .eightBit else .fourBit none := by
  rw [lcdAfterStrobe_eightBit hsync hbusy hiface, hdout,
    lcdAfterByte_instruction hmode _ (decodeLcdNibbles_functionSet eightBit _)]
  rfl

/-- A nibble 0x3 brings any interface one nibble nearer to 8-bit mode. -/
theorem resetDistance_lcdAfterStrobe (hdout : s.dout = 0x3) :
    resetDistance (lcdAfterStrobe s).iface ≤ resetDistance s.lcd.iface - 1 := by
  match hiface : s.lcd.iface with
  | .eightBit =>
    rw [iface_lcdAfterStrobe_functionSet hsync hbusy hmode hiface (eightBit := true) hdout]
    decide
  | .fourBit none =>
    rw [lcdAfterStrobe_highNibble hsync hbusy hiface, hdout]
    exact Nat.le_refl 1
  | .fourBit (some h) =>
    rw [lcdAfterStrobe_lowNibble hsync hbusy hiface, hdout]
    by_cases h3 : h = 0x3
    · rw [h3, lcdAfterByte_instruction hmode (h := 0x3) _ (decodeLcdNibbles_functionSet true 0x3)]
      exact Nat.zero_le _
    · have isInstruction : ∀ h : Nibble, (decodeLcdNibbles h 0x3).isSome = true := by decide
      obtain ⟨i, hd⟩ := Option.isSome_iff_exists.1 (isInstruction h)
      rw [lcdAfterByte_instruction hmode _ hd, resetDistance, if_neg h3]
      exact resetDistance_lcdEffect i _ rfl

end Strobe

/-- `n` transfers of a nibble 0x3 as an instruction. -/
def resetNibbles (d : Nat) : Nat → List Event
  | 0 => []
  | n + 1 => xfer .instruction 0x3 d ++ resetNibbles d n

section Reset
variable {s : State} {rest : List Event} (hsync : s.sync = .inStep) (hbusy : s.lcd.busy = false)
include hsync hbusy

/-- Nibble by nibble the interface comes nearer to 8-bit mode. -/
theorem runSteps_resetNibbles {d n : Nat} (hrun : Running s (resetNibbles d n ++ rest)) :
    ∃ t, runSteps (4 * n) s = .next t ∧ Running t rest ∧ t.sync = .inStep ∧ t.lcd.busy = false ∧ t.cfg = s.cfg ∧
      t.statuses = s.statuses ∧ resetDistance t.lcd.iface ≤ resetDistance s.lcd.iface - n := by
  induction n generalizing s with
  | zero => exact ⟨s, rfl, hrun, hsync, hbusy, rfl, rfl, Nat.le_refl _⟩
  | succ n ih =>
    obtain ⟨hl, hseq⟩ := hrun
    rw [resetNibbles, List.append_assoc] at hseq
    have hfirst := runSteps_xfer ⟨hl, hseq⟩
    have hnearer := resetDistance_lcdAfterStrobe (s := atStrobe .instruction 0x3 d (resetNibbles d n ++ rest) s)
      hsync hbusy rfl rfl
    obtain ⟨t, ht, hrun', hsync', hbusy', hcfg, hstatuses, hdist⟩ :=
      ih (s := afterXfer .instruction 0x3 d (resetNibbles d n ++ rest) _ s) hsync rfl ⟨hl, rfl⟩
    rw [Nat.mul_succ, Nat.add_comm]
    refine ⟨t, (runSteps_add hfirst _).trans ht, hrun', hsync', hbusy', hcfg, hstatuses, hdist.trans ?_⟩
    rw [Nat.add_comm n 1, ← Nat.sub_sub]
    exact Nat.sub_le_sub_right hnearer n

/-- FS_RESET_A and FS_RESET_B leave an LCD in any interface state ready: their first three nibbles bring it to 8-bit mode, in
which the fourth, 0x2, switches it to 4 bits (R83). -/
theorem runSteps_functionReset (hrun : Running s
      (byteWrite s.cfg .instruction fsResetA ++ (byteWrite s.cfg .instruction fsResetB ++ rest))) :
    ∃ t, runSteps 16 s = .next t ∧ Running t rest ∧ LcdReady t ∧ t.cfg = s.cfg ∧ t.statuses = s.statuses := by
  have nibbles : byteWrite s.cfg .instruction fsResetA ++ (byteWrite s.cfg .instruction fsResetB ++ rest) =
      resetNibbles s.cfg.tSettle 3 ++ (xfer .instruction 0x2 s.cfg.tSettle ++ rest) := rfl
  rw [nibbles] at hrun
  obtain ⟨t, ht, hrun', hsync', hbusy', hcfg, hstatuses, hdist⟩ := runSteps_resetNibbles hsync hbusy hrun
  have heightBit : t.lcd.iface = .eightBit := by
    have hmax := resetDistance_le s.lcd.iface
    exact eq_eightBit_of_resetDistance (by omega)
  have hfourBit := iface_lcdAfterStrobe_functionSet (s := atStrobe .instruction 0x2 s.cfg.tSettle rest t)
    hsync' hbusy' rfl heightBit (eightBit := false) rfl
  exact ⟨_, (runSteps_add ht 4).trans (runSteps_xfer hrun'), ⟨hrun'.1, rfl⟩, ⟨hsync', hfourBit, rfl⟩, hcfg, hstatuses⟩

end Reset

/-! ### An instruction byte write to a ready LCD -/

/-- The state after a write of the byte of instruction `i` to a ready LCD, with the events `rest` still ahead: what the LCD
executes is over with the wait behind the byte. -/
def afterInstructionByte (i : Instr) (b : Byte) (rest : List Event) (s : State) : State :=
  { s with
    mode := .instruction, dout := lo b, e := 0, seq := .busy rest,
    events := s.events ++ byteWrite s.cfg .instruction b, fresh := s.fresh + 2,
    lcd := { lcdEffect i (s.fresh + 2) { s.lcd with ir := b } with busy := false } }

/-- The eight events of an instruction byte write bring a ready LCD the byte, which runs as its instruction (R63,
R74). -/
theorem runSteps_instructionByte {s : State} {b : Byte} {rest : List Event} {i : Instr}
    (hrun : Running s (byteWrite s.cfg .instruction b ++ rest)) (hready : LcdReady s)
    (hd : decodeLcdByte b = some i) : runSteps 8 s = .next (afterInstructionByte i b rest s) := by
  obtain ⟨-, hiface, hbusy⟩ := id hready
  have hlcd : { s.lcd with iface := .fourBit none, busy := false, ir := b } = { s.lcd with ir := b } := by
    rw [← hiface, ← hbusy]
  have hjoin : joinNibbles (hi b) (lo b) = b := hi_append_lo b
  have hevents : s.events ++ byteWrite s.cfg .instruction b =
      s.events ++ xfer .instruction (hi b) s.cfg.tSettle ++
        xfer .instruction (lo b) (settle s.cfg .instruction b) := (List.append_assoc _ _ _).symm
  rw [runSteps_byteWrite hrun hready, lcdAfterByte_instruction rfl _ hd, hjoin, afterInstructionByte, hevents, ← hlcd]
  rfl

/-- A byte of any class but FUNCTION_SET keeps step, and so does a FUNCTION_SET with DL = 0. -/
theorem keepsStep_of_decode {b : Byte} {i : Instr} (hd : decodeLcdByte b = some i)
    (hi : ∀ n f x, i ≠ .functionSet true n f x) : keepsStep b = true := by
  rw [keepsStep, hd]
  cases i with
  | functionSet eightBit n f x =>
    cases eightBit with
    | false => rfl
    | true => exact absurd rfl (hi n f x)
  | _ => rfl

/-- An LCD after whole instruction bytes, each with the instruction it runs as and the wait behind it; `fresh` is the index
of the free value drawn before the first. -/
def lcdAfterInstructions : Nat → List (Byte × Instr) → Lcd → Lcd
  | _, [], l => l
  | fresh, (b, i) :: rest, l =>
    lcdAfterInstructions (fresh + 2) rest { lcdEffect i (fresh + 2) { l with ir := b } with busy := false }

/-- Any number of instruction bytes that keep step, written to a ready LCD one after the other. -/
theorem runSteps_instructionBytes {s : State} {rest : List Event} {bytes : List (Byte × Instr)}
    (hrun : Running s (bytes.flatMap (fun p => byteWrite s.cfg .instruction p.1) ++ rest)) (hready : LcdReady s)
    (hbytes : ∀ p ∈ bytes, decodeLcdByte p.1 = some p.2 ∧ keepsStep p.1 = true) :
    ∃ t, runSteps (8 * bytes.length) s = .next t ∧ Running t rest ∧ LcdReady t ∧ t.statuses = s.statuses ∧
      t.lcd = lcdAfterInstructions s.fresh bytes s.lcd := by
  induction bytes generalizing s with
  | nil => exact ⟨s, rfl, hrun, hready, rfl, rfl⟩
  | cons p bytes ih =>
    obtain ⟨b, i⟩ := p
    obtain ⟨⟨hd, hkeeps⟩, htail⟩ := List.forall_mem_cons.1 hbytes
    obtain ⟨hl, hseq⟩ := hrun
    obtain ⟨hsync, hiface, -⟩ := id hready
    rw [List.flatMap_cons, List.append_assoc] at hseq
    have hfirst := runSteps_instructionByte ⟨hl, hseq⟩ hready hd
    obtain ⟨j, hj, hkept⟩ := exists_of_keepsStep hkeeps
    obtain rfl := Option.some.inj (hj.symm.trans hd)
    obtain ⟨t, ht, hrun', hready', hstatuses, hlcd⟩ :=
      ih (s := afterInstructionByte j b (bytes.flatMap (fun p => byteWrite s.cfg .instruction p.1) ++ rest) s) ⟨hl, rfl⟩
        ⟨hsync, hkept _ _ hiface, rfl⟩ htail
    rw [List.length_cons, Nat.mul_succ, Nat.add_comm]
    exact ⟨t, (runSteps_add hfirst _).trans ht, hrun', hready', hstatuses, hlcd⟩

/-! ### INIT -/

/-- The fields of an ENTRY_MODE_SET byte are its bits (R72, R73). -/
theorem decodeLcdByte_entryModeSet : ∀ b : Byte, 0x04 ≤ b.toNat ∧ b.toNat ≤ 0x07 →
    decodeLcdByte b = some (.entryModeSet (b.getLsbD 1) (b.getLsbD 0)) := by decide

/-- The fields of a DISPLAY_CONTROL byte are its bits (R72, R73). -/
theorem decodeLcdByte_displayControl : ∀ b : Byte, 0x08 ≤ b.toNat ∧ b.toNat ≤ 0x0F →
    decodeLcdByte b = some (.displayControl (b.getLsbD 2) (b.getLsbD 1) (b.getLsbD 0)) := by decide

/-- The instruction bytes INIT sends after the function reset (R79), with the instructions they run as. -/
def initSettings (c : Config) : List (Byte × Instr) :=
  [(fs4Bit2Line, .functionSet false true false 0),
   (c.initEntryMode, .entryModeSet (c.initEntryMode.getLsbD 1) (c.initEntryMode.getLsbD 0)),
   (c.initDisplayControl, .displayControl (c.initDisplayControl.getLsbD 2) (c.initDisplayControl.getLsbD 1)
     (c.initDisplayControl.getLsbD 0)),
   (clearDisplayByte, .clearDisplay),
   (returnHomeByte, .returnHome 0)]

/-- Each of these bytes is its instruction's, and none switches the interface to 8 bits. -/
theorem initSettings_decode {c : Config} (hl : c.legal = true) :
    ∀ p ∈ initSettings c, decodeLcdByte p.1 = some p.2 ∧ keepsStep p.1 = true := by
  have hentry := decodeLcdByte_entryModeSet _ (Config.initEntryMode_range hl)
  have hdisplay := decodeLcdByte_displayControl _ (Config.initDisplayControl_range hl)
  simp only [initSettings, List.forall_mem_cons, List.not_mem_nil]
  exact ⟨⟨rfl, rfl⟩, ⟨hentry, keepsStep_of_decode hentry nofun⟩, ⟨hdisplay, keepsStep_of_decode hdisplay nofun⟩,
    ⟨rfl, rfl⟩, ⟨rfl, rfl⟩, nofun⟩

/-- INIT's trace after the power-on wait: the function reset (R83), the settings, the last SetMode. -/
def initTraceAfterWait (c : Config) : List Event :=
  byteWrite c .instruction fsResetA ++ (byteWrite c .instruction fsResetB ++
    ((initSettings c).flatMap (fun p => byteWrite c .instruction p.1) ++ [.setMode .data]))

theorem initTrace_eq (c : Config) :
    initTrace c = .setMode .instruction :: .wait c.tPowerOn :: initTraceAfterWait c := by
  simp [initTrace, clearHomeTrace, initTraceAfterWait, initSettings]

/-- A SetMode and a Wait, as INIT begins; the wait ends whatever the LCD was executing (R61). -/
theorem runSteps_setMode_wait {s : State} {m : Mode} {n : Nat} {rest : List Event}
    (hrun : Running s (.setMode m :: .wait n :: rest)) : runSteps 2 s = .next
      { s with
        mode := m, seq := .busy rest, events := s.events ++ [.setMode m] ++ [.wait n],
        lcd := { s.lcd with busy := false } } :=
  runSteps_trace (tr := [.setMode m, .wait n]) hrun

/-- INIT issued and run to the end of its power-on wait. -/
theorem runSteps_powerOnWait {s : State} {ms : List HostMove} (hnext : NextMove s (.issue 0x10000000) ms) :
    ∃ t, runSteps 3 s = .next t ∧ Running t (initTraceAfterWait s.cfg) ∧ t.sync = .inStep ∧ t.lcd.busy = false ∧
      t.cfg = s.cfg ∧ t.statuses = s.statuses := by
  obtain ⟨hl, -⟩ := id hnext
  have issued := step_of_issue_accepted (i := .init) hnext rfl (congrArg Except.ok (initTrace_eq s.cfg))
  have run := (runSteps_of_step issued 2).trans (runSteps_setMode_wait ⟨hl, rfl⟩)
  exact ⟨_, run, ⟨hl, rfl⟩, rfl, rfl, rfl, rfl⟩

/-- INIT run to its end: it leaves the LCD ready, with the settings made on whatever LCD the function reset left. -/
theorem runSteps_init {s : State} {ms : List HostMove} (hnext : NextMove s (.issue 0x10000000) ms) :
    ∃ t fresh l, runSteps 61 s = .next t ∧ t.seq = .idle ∧ t.statuses = s.statuses ++ [.ok] ∧ t.mode = .data ∧
      LcdReady t ∧ t.lcd = lcdAfterInstructions fresh (initSettings s.cfg) l := by
  obtain ⟨t, waited, hrun, hsync, hbusy, hcfg, hstatuses⟩ := runSteps_powerOnWait hnext
  rw [← hcfg] at hrun
  obtain ⟨u, reset, hrunU, hreadyU, hcfgU, hstatusesU⟩ := runSteps_functionReset hsync hbusy hrun
  rw [← hcfgU] at hrunU
  obtain ⟨v, settings, hrunV, hreadyV, hstatusesV, hlcdV⟩ :=
    runSteps_instructionBytes hrunU hreadyU (initSettings_decode hrunU.1)
  have dataMode := step_of_running hrunV
  have completed := step_of_traceEmpty (s := perform (.setMode .data) (v.setSeq (.busy []))) ⟨hrunV.1, rfl⟩
  have run : runSteps 61 s = .next (complete (perform (.setMode .data) (v.setSeq (.busy [])))) := by
    rw [runSteps_add waited 58, runSteps_add reset 42]
    exact (runSteps_add settings 2).trans ((runSteps_of_step dataMode 1).trans (runSteps_of_step completed 0))
  rw [hcfgU, hcfg] at hlcdV
  refine ⟨_, u.fresh, u.lcd, run, rfl, ?_, rfl, hreadyV, hlcdV⟩
  rw [← hstatuses, ← hstatusesU, ← hstatusesV]
  rfl

/-- Settles O57: the fields the settings write do not depend on the LCD they are made on. -/
theorem initBringsAnyLcdToKnownState : Obligations.InitBringsAnyLcdToKnownState := by
  intro s ms hnext
  obtain ⟨t, fresh, l, ht, hidle, hstatuses, hmode, hready, hlcd⟩ := runSteps_init hnext
  refine ⟨t, ht, hidle, hstatuses, hmode, hready, ?_⟩
  rw [hlcd]
  exact ⟨rfl, rfl, rfl, rfl, rfl, rfl, rfl, rfl, rfl, fun a ha => Vector.getElem_replicate ha⟩

end Sys2Proof.Machine

/-! The text family (43_text_commands.md): what the argument check of WSTR reads (R90), when the command is accepted or rejected
(R89, R111), and the text it puts in the LCD's DDRAM (R92, R37). -/

namespace Sys2Proof.Machine

/-! ### The scan for the terminator (R90) -/

theorem memRead_of_lt {s : State} {a : Nat} (h : a < s.cfg.opmemSize) : s.memRead a = some (readCell s.opmem a) := if_pos h

/-! One equation per case of `scanString`. -/

section Scan
variable {s : State} {a : Nat} (fuel : Nat)

theorem scanString_of_outside (h : s.cfg.opmemSize ≤ a) : scanString s (fuel + 1) a = none := by
  rw [scanString, memRead_of_le h]

theorem scanString_of_terminator (ha : a < s.cfg.opmemSize) (h : readCell s.opmem a = 0x00) :
    scanString s (fuel + 1) a = some [] := by
  rw [scanString, memRead_of_lt ha]
  exact if_pos h

theorem scanString_of_character (ha : a < s.cfg.opmemSize) (h : readCell s.opmem a ≠ 0x00) :
    scanString s (fuel + 1) a = (scanString s fuel (a + 1)).map (readCell s.opmem a :: ·) := by
  rw [scanString, memRead_of_lt ha]
  exact if_neg h

end Scan

/-- The scan stops at the terminator with the bytes before it, if it may look that far. -/
theorem scanString_of_terminated {s : State} {L fuel a : Nat} (hfuel : L < fuel) (hsize : a + L < s.cfg.opmemSize)
    (hbytes : ∀ i, i < L → readCell s.opmem (a + i) ≠ 0x00) (hend : readCell s.opmem (a + L) = 0x00) :
    scanString s fuel a = some ((List.range L).map fun i => readCell s.opmem (a + i)) := by
  induction L generalizing fuel a with
  | zero =>
    obtain ⟨fuel, rfl⟩ := Nat.exists_eq_add_one.2 hfuel
    exact scanString_of_terminator fuel hsize hend
  | succ L ih =>
    obtain ⟨fuel, rfl⟩ := Nat.exists_eq_add_one.2 (Nat.zero_lt_of_lt hfuel)
    have shift (i : Nat) : a + (i + 1) = a + 1 + i := by omega
    have hfirst : readCell s.opmem a ≠ 0x00 := hbytes 0 (Nat.succ_pos L)
    have hrest := ih (fuel := fuel) (a := a + 1) (by omega) (by omega)
      (fun i hi => shift i ▸ hbytes (i + 1) (Nat.succ_lt_succ hi)) (shift L ▸ hend)
    rw [scanString_of_character fuel (by omega) hfirst, hrest, List.range_succ_eq_map]
    simp [Function.comp_def, ← shift]

/-- The scan finds nothing if no byte from its start to the end of memory is a terminator. -/
theorem scanString_of_unterminated {s : State} {a : Nat}
    (h : ∀ j, a ≤ j → j < s.cfg.opmemSize → readCell s.opmem j ≠ 0x00) (fuel : Nat) : scanString s fuel a = none := by
  induction fuel generalizing a with
  | zero => rfl
  | succ fuel ih =>
    obtain ha | ha := Nat.lt_or_ge a s.cfg.opmemSize
    · rw [scanString_of_character fuel ha (h a le_rfl ha), ih fun j hj => h j (by omega), Option.map_none]
    · exact scanString_of_outside fuel ha

theorem readString_of_terminated {s : State} {L a : Nat} (hsize : a + L < s.cfg.opmemSize)
    (hbytes : ∀ i, i < L → readCell s.opmem (a + i) ≠ 0x00) (hend : readCell s.opmem (a + L) = 0x00) :
    readString s a = .ok ((List.range L).map fun i => readCell s.opmem (a + i)) := by
  rw [readString, if_neg (by omega), scanString_of_terminated (by omega) hsize hbytes hend]

/-- An address outside the memory has no byte after it there, so one hypothesis covers both causes of R90. -/
theorem readString_of_unterminated {s : State} {a : Nat}
    (h : ∀ j, a ≤ j → j < s.cfg.opmemSize → readCell s.opmem j ≠ 0x00) : readString s a = .error .invalidArgument := by
  rw [readString, scanString_of_unterminated h]
  split <;> rfl

/-! ### WSTR accepted and rejected (R89, R90, R111) -/

/-- Settles O25: the check reads the `L` bytes before the terminator, and each is one data byte write of the trace. -/
theorem wstrSendsTheString : Obligations.WstrSendsTheString := by
  intro s addr L hidle hsize hbytes hend
  have hread := readString_of_terminated hsize hbytes hend
  have hexec := exec_of_commandTrace_ok (i := .wstr addr) rfl hidle (commandTrace_wstr_ok hread)
  rwa [stringTrace, List.flatMap_map] at hexec

/-- A command whose argument check fails is rejected by an Idle block, and nothing but the status changes (R109). -/
theorem exec_of_commandTrace_error {i : Instr} {s : State} {st : Status} (hi : isCommand i = true)
    (hidle : s.seq = .idle) (hst : commandTrace i s = .error st) (hsync : syncAfter i s.sync = s.sync) :
    exec i s = .next { s with statuses := s.statuses ++ [st] } := by
  rw [exec_command hi, hst, hsync, setSync_self]
  exact reject_of_idle hidle st

/-- Settles O26: in either case no byte of the memory from the address on is a terminator. -/
theorem wstrRejectsUnterminated : Obligations.WstrRejectsUnterminated := by
  intro s addr hidle hcause
  have hnone : ∀ j, addr.toNat ≤ j → j < s.cfg.opmemSize → readCell s.opmem j ≠ 0x00 := by
    obtain hout | hnone := hcause
    · intro j hj hlt
      omega
    · exact hnone
  exact exec_of_commandTrace_error rfl hidle (commandTrace_wstr_error (readString_of_unterminated hnone)) rfl

/-! ### Any number of data byte writes to a ready LCD -/

/-- A ready LCD after whole data bytes, each with the wait behind it; `fresh` is the index of the free value drawn before the
first. -/
def lcdAfterDataBytes : Nat → List Byte → Lcd → Lcd
  | _, [], l => l
  | fresh, b :: bytes, l => lcdAfterDataBytes (fresh + 2) bytes (lcdAfterData (fresh + 2) b l)

/-- Data bytes written to a ready LCD one after the other: a string, or the rows of a glyph. -/
theorem runSteps_dataBytes {s : State} {rest : List Event} {bytes : List Byte}
    (hrun : Running s (bytes.flatMap (byteWrite s.cfg .data) ++ rest)) (hready : LcdReady s) :
    ∃ t, runSteps (8 * bytes.length) s = .next t ∧ Running t rest ∧ LcdReady t ∧ t.cfg = s.cfg ∧
      t.statuses = s.statuses ∧ t.lcd = lcdAfterDataBytes s.fresh bytes s.lcd := by
  induction bytes generalizing s with
  | nil => exact ⟨s, rfl, hrun, hready, rfl, rfl, rfl⟩
  | cons b bytes ih =>
    obtain ⟨hl, hseq⟩ := hrun
    rw [List.flatMap_cons, List.append_assoc] at hseq
    have hfirst := runSteps_dataByte ⟨hl, hseq⟩ hready
    obtain ⟨t, ht, hrun', hready', hcfg, hstatuses, hlcd⟩ :=
      ih (s := afterDataByte b (bytes.flatMap (byteWrite s.cfg .data) ++ rest) s) ⟨hl, rfl⟩
        (afterDataByte_ready hready b _)
    rw [List.length_cons, Nat.mul_succ, Nat.add_comm]
    exact ⟨t, (runSteps_add hfirst _).trans ht, hrun', hready', hcfg, hstatuses, hlcd⟩

/-- WSTR on a ready LCD, run to its end (R89): issued, its data byte writes, completed. -/
theorem runSteps_wstr {s : State} {addr : BitVec 16} {ms : List HostMove} {bytes : List Byte}
    (hnext : NextMove s (.issue (commandWord 0x4 0 addr 0)) ms) (hread : readString s addr.toNat = .ok bytes)
    (hready : LcdReady s) :
    ∃ t, runSteps (8 * bytes.length + 2) s = .next t ∧ t.seq = .idle ∧ t.statuses = s.statuses ++ [.ok] ∧ LcdReady t ∧
      t.lcd = lcdAfterDataBytes s.fresh bytes s.lcd := by
  obtain ⟨hl, -, -⟩ := id hnext
  have hissue := step_of_issue_accepted (i := .wstr addr) hnext rfl (commandTrace_wstr_ok hread)
  obtain ⟨t, ht, hrun, hready', -, hstatuses, hlcd⟩ := runSteps_dataBytes (rest := []) (bytes := bytes)
    (s := ((s.setScript ms).setSync s.sync).setSeq (.busy (stringTrace s.cfg bytes))) ⟨hl, by simp [stringTrace]⟩ hready
  have hcomplete := runSteps_of_step (step_of_traceEmpty hrun) 0
  exact ⟨complete t, (runSteps_of_step hissue _).trans ((runSteps_add ht 1).trans hcomplete), rfl,
    congrArg (· ++ [Status.ok]) hstatuses, hready', hlcd⟩

/-! ### Text in DDRAM (R37, R92) -/

@[simp] theorem storeAtCounter_increment (b : Byte) (l : Lcd) : (storeAtCounter b l).increment = l.increment := by
  unfold storeAtCounter; split <;> rfl

/-- The LCD writes upwards in DDRAM and its next byte goes to cell `p`; past the last cell (`p = 128`) the counter may be
anything. -/
def TextAt (p : Nat) (l : Lcd) : Prop := l.increment = true ∧ (p < 128 → l.ac = .ddram (BitVec.ofNat 7 p))

section Text
variable {p : Nat} {l : Lcd}

/-- A data byte moves the place of the next one up by one. -/
theorem TextAt.afterByte (h : TextAt p l) (hp : p < 128) (fresh : Nat) (b : Byte) :
    TextAt (p + 1) (lcdAfterData fresh b l) := by
  obtain ⟨hinc, hac⟩ := h
  refine ⟨(storeAtCounter_increment b { l with dr := b }).trans hinc, fun hnext => ?_⟩
  have hlast : BitVec.ofNat 7 p ≠ 0x7F := by bv_omega
  obtain ⟨hup, -⟩ := writeData_ac_of_ddram fresh (l := { l with dr := b }) (hac hp) b
  rw [BitVec.ofNat_add]
  exact hup hinc hlast

/-- A data byte changes the cell `p` of DDRAM alone. -/
theorem TextAt.afterByte_cells (h : TextAt p l) (hp : p < 128) (fresh : Nat) (b : Byte) :
    (∀ (x : Nat) (hx : x < 128), (lcdAfterData fresh b l).ddram[x] = if x = p then b else l.ddram[x]) ∧
      (lcdAfterData fresh b l).cgram = l.cgram := by
  obtain ⟨-, hac⟩ := h
  have hcells := writeData_of_ddram fresh (l := { l with dr := b }) (hac hp) b
  rwa [BitVec.toNat_ofNat, Nat.mod_eq_of_lt hp] at hcells

theorem TextAt.afterBytes (h : TextAt p l) {bytes : List Byte} (hlen : p + bytes.length ≤ 128) (fresh : Nat) :
    TextAt (p + bytes.length) (lcdAfterDataBytes fresh bytes l) := by
  induction bytes generalizing p l fresh with
  | nil => exact h
  | cons b bytes ih =>
    rw [List.length_cons] at hlen ⊢
    rw [Nat.add_comm bytes.length, ← Nat.add_assoc]
    exact ih (h.afterByte (by omega) (fresh + 2) b) (by omega) (fresh + 2)

/-- Text that fits changes no CGRAM byte, and no DDRAM cell before or behind it. -/
theorem TextAt.afterBytes_frame (h : TextAt p l) {bytes : List Byte} (hlen : p + bytes.length ≤ 128) (fresh : Nat) :
    (lcdAfterDataBytes fresh bytes l).cgram = l.cgram ∧
      ∀ (x : Nat) (hx : x < 128), x < p ∨ p + bytes.length ≤ x →
        (lcdAfterDataBytes fresh bytes l).ddram[x] = l.ddram[x] := by
  induction bytes generalizing p l fresh with
  | nil => exact ⟨rfl, fun _ _ _ => rfl⟩
  | cons b bytes ih =>
    rw [List.length_cons] at hlen ⊢
    obtain ⟨hcells, hcgram⟩ := h.afterByte_cells (by omega) (fresh + 2) b
    obtain ⟨ihCgram, ihCells⟩ := ih (h.afterByte (by omega) (fresh + 2) b) (by omega) (fresh + 2)
    refine ⟨ihCgram.trans hcgram, fun x hx hout => ?_⟩
    exact (ihCells x hx (by omega)).trans ((hcells x hx).trans (if_neg (by omega)))

/-- Character `i` of text that fits stands in cell `p + i`: the first is written and kept by the others, and the others
follow it. -/
theorem TextAt.afterBytes_text (h : TextAt p l) {bytes : List Byte} (hlen : p + bytes.length ≤ 128) (fresh : Nat)
    (i : Nat) (hi : i < bytes.length) (hx : p + i < 128) :
    (lcdAfterDataBytes fresh bytes l).ddram[p + i] = bytes[i] := by
  induction bytes generalizing p l fresh i with
  | nil => exact absurd hi (Nat.not_lt_zero i)
  | cons b bytes ih =>
    rw [List.length_cons] at hlen hi
    have hnext := h.afterByte (by omega) (fresh + 2) b
    cases i with
    | zero =>
      obtain ⟨hcells, -⟩ := h.afterByte_cells (by omega) (fresh + 2) b
      obtain ⟨-, hkept⟩ := hnext.afterBytes_frame (bytes := bytes) (by omega) (fresh + 2)
      exact (hkept p (by omega) (by omega)).trans ((hcells p (by omega)).trans (if_pos rfl))
    | succ i =>
      have htail := ih hnext (by omega) (fresh + 2) i (by omega) (by omega)
      simp only [Nat.add_right_comm p 1 i] at htail
      exact htail

end Text

/-- Settles O58: the run leaves the LCD as its string's data bytes do, which begin at the counter. -/
theorem wstrPutsTextInDdram : Obligations.WstrPutsTextInDdram := by
  intro s addr ms bytes p hnext hread hready hinc hac hlen
  obtain ⟨t, ht, hidle, hstatuses, hready', hlcd⟩ := runSteps_wstr hnext hread hready
  have hstart : TextAt p.toNat s.lcd := ⟨hinc, fun _ => by rw [hac, BitVec.ofNat_toNat, BitVec.setWidth_eq]⟩
  obtain ⟨hcgram, hkept⟩ := hstart.afterBytes_frame hlen s.fresh
  obtain ⟨-, hcounter⟩ := hstart.afterBytes hlen s.fresh
  rw [BitVec.ofNat_add, BitVec.ofNat_toNat, BitVec.setWidth_eq] at hcounter
  refine ⟨t, ht, hidle, hstatuses, hready', ?_⟩
  rw [hlcd]
  exact ⟨hcgram, hstart.afterBytes_text hlen s.fresh, hkept, hcounter⟩

end Sys2Proof.Machine

/-! The CGRAM programmer family (44_cgram_programmer.md): what the argument check of LDGLY reads (R98 to R101), when the
command is accepted or rejected (R97, R105, R111), its FSM (R102), and the glyphs it puts in the LCD's CGRAM (R103,
R104, R107). -/

namespace Sys2Proof.Machine

/-! ### The argument check (R98 to R101) -/

/-- The operand bytes from address `a` on, counted from 0; those of a glyph set are its rows, row `r` of glyph `k` at
`8 * k + r` (R34). -/
abbrev operandsFrom (m : Memory) (a i : Nat) : Byte := readCell m (a + i)

/-- Bytes that are all inside the memory are all read. -/
theorem readBytes_of_fits {s : State} {a p len : Nat} (h : a + p + len ≤ s.cfg.opmemSize) :
    readBytes s len (a + p) = some ((List.range' p len).map (operandsFrom s.opmem a)) := by
  induction len generalizing p with
  | zero => rfl
  | succ len ih =>
    have hfirst := memRead_of_lt (s := s) (a := a + p) (by omega)
    have hrest := ih (p := p + 1) (by omega)
    rw [readBytes, hfirst, Nat.add_assoc, hrest]
    rfl

theorem legalRow_iff {b : Byte} : legalRow b = true ↔ b.toNat ≤ 0x1F := decide_eq_true_iff

/-- The row check, over the bytes of the memory (R100). -/
theorem all_legalRow_iff {m : Memory} {a len : Nat} : ((List.range' 0 len).map (operandsFrom m a)).all legalRow = true ↔
    ∀ i < len, (readCell m (a + i)).toNat ≤ 0x1F := by
  simp [legalRow_iff, List.mem_range'_1]

section Check
variable {s : State} {n a : Nat}

/-- A count above GLYPH_SLOTS fails the check (R98). -/
theorem readGlyphSet_of_tooMany (h : 8 < n) : readGlyphSet s n a = .error .invalidArgument := if_pos h

/-- The check of a count of 1 to 8 looks at the range, then at the rows (R99, R100). -/
theorem readGlyphSet_of_count (hmin : 1 ≤ n) (hmax : n ≤ 8) : readGlyphSet s n a =
    if s.cfg.opmemSize < a + 8 * n then .error .invalidArgument
    else if ∀ i < 8 * n, (readCell s.opmem (a + i)).toNat ≤ 0x1F then
      .ok ((List.range' 0 (8 * n)).map (operandsFrom s.opmem a))
    else .error .invalidArgument := by
  rw [readGlyphSet, if_neg (show ¬ Config.glyphSlots < n from Nat.not_lt.2 hmax),
    if_neg (Nat.one_le_iff_ne_zero.1 hmin)]
  by_cases houtside : s.cfg.opmemSize < a + 8 * n
  · exact (if_pos houtside).trans (if_pos houtside).symm
  · have hread : readBytes s (Config.glyphRows * n) a = some ((List.range' 0 (8 * n)).map (operandsFrom s.opmem a)) :=
      readBytes_of_fits (p := 0) (Nat.not_lt.1 houtside)
    refine (if_neg houtside).trans (Eq.trans ?_ (if_neg houtside).symm)
    rw [hread]
    simp only [all_legalRow_iff]

/-- A set that does not fit the memory fails the check (R99). -/
theorem readGlyphSet_of_outside (hmin : 1 ≤ n) (hmax : n ≤ 8) (h : s.cfg.opmemSize < a + 8 * n) :
    readGlyphSet s n a = .error .invalidArgument := by
  rw [readGlyphSet_of_count hmin hmax, if_pos h]

/-- A row with any of bits 7:5 set fails the check (R100). -/
theorem readGlyphSet_of_wideRow (hmin : 1 ≤ n) (hmax : n ≤ 8) (hfits : a + 8 * n ≤ s.cfg.opmemSize) {i : Nat}
    (hi : i < 8 * n) (hwide : 0x1F < (readCell s.opmem (a + i)).toNat) :
    readGlyphSet s n a = .error .invalidArgument := by
  rw [readGlyphSet_of_count hmin hmax, if_neg (Nat.not_lt.2 hfits),
    if_neg fun hrows => Nat.not_lt.2 (hrows i hi) hwide]

/-- The check of a legal set answers its rows (R101). -/
theorem readGlyphSet_of_legal (hmin : 1 ≤ n) (hmax : n ≤ 8) (hfits : a + 8 * n ≤ s.cfg.opmemSize)
    (hrows : ∀ i < 8 * n, (readCell s.opmem (a + i)).toNat ≤ 0x1F) :
    readGlyphSet s n a = .ok ((List.range' 0 (8 * n)).map (operandsFrom s.opmem a)) := by
  rw [readGlyphSet_of_count hmin hmax, if_neg (Nat.not_lt.2 hfits), if_pos hrows]

/-- A set of at least one glyph that passes the check has at most 8, and the check answers its rows. -/
theorem readGlyphSet_ok {rows : List Byte} (hmin : 1 ≤ n) (h : readGlyphSet s n a = .ok rows) :
    n ≤ 8 ∧ rows = (List.range' 0 (8 * n)).map (operandsFrom s.opmem a) := by
  obtain hmany | hmax := Nat.lt_or_ge 8 n
  · rw [readGlyphSet_of_tooMany hmany] at h
    cases h
  · rw [readGlyphSet_of_count hmin hmax] at h
    repeat' split at h
    all_goals cases h
    exact ⟨hmax, rfl⟩

end Check

/-! ### LDGLY rejected (R98 to R100, R111) -/

/-- LDGLY of a set that fails the check is rejected, and nothing but the status changes. -/
theorem exec_ldgly_of_error {s : State} {cnt : BitVec 4} {addr : BitVec 16} {st : Status} (hidle : s.seq = .idle)
    (h : readGlyphSet s cnt.toNat addr.toNat = .error st) :
    exec (.ldgly cnt addr) s = .next { s with statuses := s.statuses ++ [st] } :=
  exec_of_commandTrace_error rfl hidle (commandTrace_ldgly_error h) rfl

/-- Settles O28. -/
theorem ldglyRejectsMoreThanEight : Obligations.LdglyRejectsMoreThanEight :=
  fun _ _ _ hidle hmany => exec_ldgly_of_error hidle (readGlyphSet_of_tooMany hmany)

/-- Settles O29. -/
theorem ldglyRejectsSetOutsideMemory : Obligations.LdglyRejectsSetOutsideMemory :=
  fun _ _ _ hidle hmin hmax houtside => exec_ldgly_of_error hidle (readGlyphSet_of_outside hmin hmax houtside)

/-- Settles O30: one wide row is enough for the check of all rows to fail. -/
theorem ldglyRejectsWideRow : Obligations.LdglyRejectsWideRow :=
  fun _ _ _ _ hidle hmin hmax hfits hi hwide =>
    exec_ldgly_of_error hidle (readGlyphSet_of_wideRow hmin hmax hfits hi hwide)

/-! ### LDGLY accepted (R97, R103 to R105) -/

/-- Settles O31: the empty set is accepted with no event ahead (one step), and completes (the other). -/
theorem ldglyEmptySet : Obligations.LdglyEmptySet := by
  intro s addr ms hnext
  obtain ⟨hl, hidle, -⟩ := id hnext
  have hissue := step_of_issue_accepted (i := .ldgly 0 addr) hnext rfl (commandTrace_ldgly_ok (rows := []) rfl)
  have hcomplete := step_of_traceEmpty (s := ((s.setScript ms).setSync s.sync).setSeq (.busy [])) ⟨hl, rfl⟩
  refine (runSteps_of_step hissue 1).trans ((runSteps_of_step hcomplete 0).trans ?_)
  rw [runSteps_zero, complete, State.setSeq, ← hidle]
  rfl

/-- The byte writes of glyph `k`: its CGRAM address, then its eight rows (R97, R103). -/
def glyphWrites (c : Config) (row : Nat → Nat → Byte) (k : Nat) : List Event :=
  byteWrite c .instruction (cgramSlot k) ++ (List.range 8).flatMap fun r => byteWrite c .data (row k r)

/-- The rows of `n + 1` glyphs from glyph `k` on are the rows of glyph `k` and those of the `n` glyphs after it. -/
theorem rows_succ (byte : Nat → Byte) (k n : Nat) : (List.range' (8 * k) (8 * (n + 1))).map byte =
    (List.range' (8 * k) 8).map byte ++ (List.range' (8 * (k + 1)) (8 * n)).map byte := by
  rw [← List.map_append, Nat.mul_succ 8 k, List.range'_append_1, Nat.mul_succ, Nat.add_comm]

theorem glyphsTrace_succ (c : Config) (byte : Nat → Byte) (k n : Nat) :
    glyphsTrace c k (n + 1) ((List.range' (8 * k) (8 * (n + 1))).map byte) =
      byteWrite c .instruction (cgramSlot k) ++ ((List.range' (8 * k) 8).map byte).flatMap (byteWrite c .data) ++
        glyphsTrace c (k + 1) n ((List.range' (8 * (k + 1)) (8 * n)).map byte) := by
  rw [rows_succ, glyphsTrace, List.take_left' (by simp [Config.glyphRows]),
    List.drop_left' (by simp [Config.glyphRows])]

/-- The trace of glyphs `k`, `k + 1`, ..., glyph by glyph. -/
theorem glyphsTrace_eq_flatMap (c : Config) (byte : Nat → Byte) (k n : Nat) :
    glyphsTrace c k n ((List.range' (8 * k) (8 * n)).map byte) =
      (List.range' k n).flatMap (glyphWrites c fun k r => byte (8 * k + r)) := by
  induction n generalizing k with
  | zero => rfl
  | succ n ih =>
    rw [glyphsTrace_succ, ih]
    rfl

/-- Settles O27: the check answers the rows, whose trace is the glyphs' one by one. -/
theorem ldglySendsTheGlyphs : Obligations.LdglySendsTheGlyphs := by
  intro s cnt addr hidle hmin hmax hfits hrows
  have hexec := exec_of_commandTrace_ok (i := .ldgly cnt addr) rfl hidle
    (commandTrace_ldgly_ok (readGlyphSet_of_legal hmin hmax hfits hrows))
  rw [ldglyTrace_of_ne_zero _ (by omega), ← Nat.mul_zero 8, glyphsTrace_eq_flatMap, ← List.range_eq_range'] at hexec
  simp only [Nat.add_assoc]
  exact hexec

/-! ### The upload FSM (R102) -/

section Fsm
variable (c : Config) (row : Nat → Nat → Byte)

/-- One state of the FSM: its action, then what its successor emits. -/
theorem glyphFsmTrace_of_next {n : Nat} {p q : GlyphPhase} (h : glyphNext n p = some q) (fuel : Nat) :
    glyphFsmTrace c row n (fuel + 1) p = glyphAction c row p ++ glyphFsmTrace c row n fuel q := by
  rw [glyphFsmTrace, h]

/-- The DDRAM return is the last state, whatever fuel is left. -/
theorem glyphFsmTrace_restore (n fuel : Nat) :
    glyphFsmTrace c row n (fuel + 1) .restore = byteWrite c .instruction returnToDdram := by
  simp [glyphFsmTrace, glyphAction, glyphNext]

/-- The state after the last row of glyph `k` of `n`: the next glyph's address, or the DDRAM return. -/
def afterGlyph (n k : Nat) : GlyphPhase := if k + 1 < n then .addr (k + 1) else .restore

theorem glyphNext_row {n k r : Nat} (h : r < 7) : glyphNext n (.row k r) = some (.row k (r + 1)) := if_pos h

theorem glyphNext_lastRow (n k : Nat) : glyphNext n (.row k 7) = some (afterGlyph n k) :=
  (apply_ite some (k + 1 < n) _ _).symm

/-- From row `r` on the FSM emits the `j + 1` rows up to row 7. -/
theorem glyphFsmTrace_row (n fuel k : Nat) {j r : Nat} (h : r + j = 7) :
    glyphFsmTrace c row n (fuel + (j + 1)) (.row k r) =
      (List.range' r (j + 1)).flatMap (fun r => byteWrite c .data (row k r)) ++
        glyphFsmTrace c row n fuel (afterGlyph n k) := by
  induction j generalizing r with
  | zero =>
    obtain rfl : r = 7 := h
    rw [glyphFsmTrace_of_next c row (glyphNext_lastRow n k)]
    simp [glyphAction]
  | succ j ih =>
    have hrest := ih (r := r + 1) (by omega)
    rw [← Nat.add_assoc, glyphFsmTrace_of_next c row (glyphNext_row (by omega)), hrest, List.range'_succ,
      List.flatMap_cons, List.append_assoc]
    rfl

/-- From the address state of a glyph on the FSM emits the glyph, in nine states. -/
theorem glyphFsmTrace_glyph (n fuel k : Nat) : glyphFsmTrace c row n (fuel + 9) (.addr k) =
    glyphWrites c row k ++ glyphFsmTrace c row n fuel (afterGlyph n k) := by
  have haddr : glyphNext n (.addr k) = some (.row k 0) := rfl
  rw [glyphFsmTrace_of_next c row haddr (fuel + 8), glyphFsmTrace_row c row n fuel k (j := 7) rfl, glyphWrites,
    List.range_eq_range', List.append_assoc]
  rfl

/-- With `j + 1` glyphs to send, from glyph `k` on, the FSM emits them and the DDRAM return, and is then done. -/
theorem glyphFsmTrace_addr {n extra j k : Nat} (h : k + (j + 1) = n) :
    glyphFsmTrace c row n (9 * (j + 1) + 1 + extra) (.addr k) =
      (List.range' k (j + 1)).flatMap (glyphWrites c row) ++ byteWrite c .instruction returnToDdram := by
  induction j generalizing k with
  | zero =>
    have hlast : afterGlyph n k = .restore := if_neg (by omega)
    rw [show 9 * (0 + 1) + 1 + extra = extra + 1 + 9 by omega, glyphFsmTrace_glyph, hlast, glyphFsmTrace_restore]
    simp
  | succ j ih =>
    have hmore : afterGlyph n k = .addr (k + 1) := if_pos (by omega)
    rw [show 9 * (j + 1 + 1) + 1 + extra = 9 * (j + 1) + 1 + extra + 9 by omega, glyphFsmTrace_glyph, hmore,
      ih (by omega), List.range'_succ (n := j + 1), List.flatMap_cons, List.append_assoc]

end Fsm

/-- Settles O34: the FSM emits glyph by glyph the trace LDGLY is accepted with. -/
theorem glyphFsmEmitsLdglyTrace : Obligations.GlyphFsmEmitsLdglyTrace := by
  intro s cnt addr extra hidle hmin hmax hfits hrows
  obtain ⟨j, hj⟩ := Nat.exists_eq_add_one.2 hmin
  have htrace := glyphFsmTrace_addr s.cfg (fun k r => readCell s.opmem (addr.toNat + 8 * k + r))
    (extra := extra) (k := 0) ((Nat.zero_add _).trans hj.symm)
  rw [← hj, ← List.range_eq_range'] at htrace
  rw [htrace]
  exact ldglySendsTheGlyphs s cnt addr hidle hmin hmax hfits hrows

/-! ### Rows in CGRAM (R34, R37) -/

/-- The LCD writes upwards in CGRAM and its next byte goes to CGRAM byte `p`; past the last one (`p = 64`) the counter
may be anything. -/
def RowsAt (p : Nat) (l : Lcd) : Prop := l.increment = true ∧ (p < 64 → l.ac = .cgram (BitVec.ofNat 6 p))

/-- From `l` to `l'` the CGRAM bytes from `p` up to `q` are loaded with `byte`; the other CGRAM bytes, DDRAM and I/D
stay. -/
structure RowsLoaded (byte : Nat → Byte) (p q : Nat) (l l' : Lcd) : Prop where
  increment : l'.increment = l.increment
  ddram : l'.ddram = l.ddram
  cgram : ∀ (x : Nat) (hx : x < 64), l'.cgram[x] = if p ≤ x ∧ x < q then byte x else l.cgram[x]

/-- Nothing is loaded by what leaves CGRAM, DDRAM and I/D alone. -/
theorem RowsLoaded.of_same {byte : Nat → Byte} {p : Nat} {l l' : Lcd} (hinc : l'.increment = l.increment)
    (hddram : l'.ddram = l.ddram) (hcgram : l'.cgram = l.cgram) : RowsLoaded byte p p l l' :=
  ⟨hinc, hddram, fun x hx => by rw [if_neg (by omega)]; simp only [hcgram]⟩

/-- Two loads, the second from where the first ends. -/
theorem RowsLoaded.trans {byte : Nat → Byte} {p q r : Nat} {l m n : Lcd} (hlm : RowsLoaded byte p q l m)
    (hmn : RowsLoaded byte q r m n) (hpq : p ≤ q) (hqr : q ≤ r) : RowsLoaded byte p r l n := by
  refine ⟨hmn.increment.trans hlm.increment, hmn.ddram.trans hlm.ddram, fun x hx => ?_⟩
  rw [hmn.cgram x hx, hlm.cgram x hx]
  obtain hx' | hx' := Nat.lt_or_ge x q
  · rw [if_neg (by omega)]
    exact if_congr (by omega) rfl rfl
  · rw [if_neg (c := p ≤ x ∧ x < q) (by omega)]
    exact if_congr (by omega) rfl rfl

section Rows
variable {p : Nat} {l : Lcd}

/-- A data byte moves the place of the next one up by one. -/
theorem RowsAt.afterByte (h : RowsAt p l) (hp : p < 64) (fresh : Nat) (b : Byte) :
    RowsAt (p + 1) (lcdAfterData fresh b l) := by
  obtain ⟨hinc, hac⟩ := h
  refine ⟨(storeAtCounter_increment b { l with dr := b }).trans hinc, fun hnext => ?_⟩
  have hlast : BitVec.ofNat 6 p ≠ 0x3F := by bv_omega
  obtain ⟨hup, -⟩ := writeData_ac_of_cgram fresh (l := { l with dr := b }) (hac hp) b
  rw [BitVec.ofNat_add]
  exact hup hinc hlast

/-- A data byte loads the CGRAM byte `p`. -/
theorem RowsAt.afterByte_loaded (h : RowsAt p l) (hp : p < 64) (fresh : Nat) (byte : Nat → Byte) :
    RowsLoaded byte p (p + 1) l (lcdAfterData fresh (byte p) l) := by
  obtain ⟨-, hac⟩ := h
  obtain ⟨hcells, hddram⟩ := writeData_of_cgram fresh (l := { l with dr := byte p }) (hac hp) (byte p)
  rw [BitVec.toNat_ofNat, Nat.mod_eq_of_lt hp] at hcells
  refine ⟨storeAtCounter_increment _ { l with dr := byte p }, hddram, fun x hx => (hcells x hx).trans ?_⟩
  by_cases hx' : x = p
  · rw [if_pos hx', if_pos (by omega), hx']
  · rw [if_neg hx', if_neg (by omega)]

/-- Data bytes load the CGRAM bytes from `p` on. -/
theorem RowsAt.afterBytes_loaded (h : RowsAt p l) {len : Nat} (hlen : p + len ≤ 64) (fresh : Nat) (byte : Nat → Byte) :
    RowsLoaded byte p (p + len) l (lcdAfterDataBytes fresh ((List.range' p len).map byte) l) := by
  induction len generalizing p l fresh with
  | zero => exact .of_same rfl rfl rfl
  | succ len ih =>
    have hfirst := h.afterByte_loaded (by omega) (fresh + 2) byte
    have hrest := ih (h.afterByte (by omega) (fresh + 2) (byte p)) (by omega) (fresh + 2)
    rw [Nat.add_assoc, Nat.add_comm 1] at hrest
    exact hfirst.trans hrest (by omega) (by omega)

end Rows

/-! ### Glyphs to a ready LCD (R103, R104) -/

/-- The address instruction of slot `k` sets the CGRAM address to the slot's first byte (R34, R103). -/
theorem decodeLcdByte_cgramSlot {k : Nat} (hk : k < 8) :
    decodeLcdByte (cgramSlot k) = some (.setCgramAddr (BitVec.ofNat 6 (8 * k))) := by
  have slots : ∀ k : Fin 8, decodeLcdByte (cgramSlot k) = some (.setCgramAddr (BitVec.ofNat 6 (8 * k))) := by decide
  exact slots ⟨k, hk⟩

/-- A ready LCD after the address instruction of slot `k` and the wait behind it. -/
def lcdAtSlot (fresh k : Nat) (l : Lcd) : Lcd :=
  { lcdEffect (.setCgramAddr (BitVec.ofNat 6 (8 * k))) fresh { l with ir := cgramSlot k } with busy := false }

/-- The address instruction of slot `k` and eight data bytes load the slot. -/
theorem lcdAtSlot_afterBytes_loaded {l : Lcd} {k : Nat} (hk : k < 8) (hinc : l.increment = true) (fresh fresh' : Nat)
    (byte : Nat → Byte) : RowsLoaded byte (8 * k) (8 * (k + 1)) l
      (lcdAfterDataBytes fresh' ((List.range' (8 * k) 8).map byte) (lcdAtSlot fresh k l)) := by
  have haddressed : RowsLoaded byte (8 * k) (8 * k) l (lcdAtSlot fresh k l) := .of_same rfl rfl rfl
  have hat : RowsAt (8 * k) (lcdAtSlot fresh k l) := ⟨hinc, fun _ => rfl⟩
  exact haddressed.trans (hat.afterBytes_loaded (by omega) fresh' byte) le_rfl (by omega)

theorem runSteps_slotAddress {s : State} {rest : List Event} {k : Nat} (hk : k < 8)
    (hrun : Running s (byteWrite s.cfg .instruction (cgramSlot k) ++ rest)) (hready : LcdReady s) :
    ∃ t, runSteps 8 s = .next t ∧ Running t rest ∧ LcdReady t ∧ t.cfg = s.cfg ∧ t.statuses = s.statuses ∧
      t.lcd = lcdAtSlot (s.fresh + 2) k s.lcd := by
  obtain ⟨hl, -⟩ := id hrun
  obtain ⟨hsync, hiface, -⟩ := id hready
  exact ⟨_, runSteps_instructionByte hrun hready (decodeLcdByte_cgramSlot hk), ⟨hl, rfl⟩, ⟨hsync, hiface, rfl⟩, rfl,
    rfl, rfl⟩

/-- A glyph, its address instruction and its eight rows, is 72 steps and loads its slot. -/
theorem runSteps_glyph {s : State} {rest : List Event} {byte : Nat → Byte} {k : Nat} (hk : k < 8)
    (hrun : Running s (byteWrite s.cfg .instruction (cgramSlot k) ++
      (((List.range' (8 * k) 8).map byte).flatMap (byteWrite s.cfg .data) ++ rest)))
    (hready : LcdReady s) (hinc : s.lcd.increment = true) :
    ∃ t, runSteps 72 s = .next t ∧ Running t rest ∧ LcdReady t ∧ t.cfg = s.cfg ∧ t.statuses = s.statuses ∧
      RowsLoaded byte (8 * k) (8 * (k + 1)) s.lcd t.lcd := by
  obtain ⟨t, address, hrunT, hreadyT, hcfgT, hstatusesT, hlcdT⟩ := runSteps_slotAddress hk hrun hready
  rw [← hcfgT] at hrunT
  obtain ⟨u, rows, hrunU, hreadyU, hcfgU, hstatusesU, hlcdU⟩ := runSteps_dataBytes hrunT hreadyT
  refine ⟨u, (runSteps_add address 64).trans rows, hrunU, hreadyU, hcfgU.trans hcfgT, hstatusesU.trans hstatusesT, ?_⟩
  rw [hlcdU, hlcdT]
  exact lcdAtSlot_afterBytes_loaded hk hinc _ _ byte

/-- Glyphs `k`, `k + 1`, ... load their slots one after the other. -/
theorem runSteps_glyphs {s : State} {rest : List Event} {byte : Nat → Byte} {k n : Nat} (hk : k + n ≤ 8)
    (hrun : Running s (glyphsTrace s.cfg k n ((List.range' (8 * k) (8 * n)).map byte) ++ rest))
    (hready : LcdReady s) (hinc : s.lcd.increment = true) :
    ∃ t, runSteps (72 * n) s = .next t ∧ Running t rest ∧ LcdReady t ∧ t.cfg = s.cfg ∧ t.statuses = s.statuses ∧
      RowsLoaded byte (8 * k) (8 * (k + n)) s.lcd t.lcd := by
  induction n generalizing s k with
  | zero => exact ⟨s, rfl, hrun, hready, rfl, rfl, .of_same rfl rfl rfl⟩
  | succ n ih =>
    rw [glyphsTrace_succ, List.append_assoc, List.append_assoc] at hrun
    obtain ⟨t, ht, hrunT, hreadyT, hcfgT, hstatusesT, hloadT⟩ := runSteps_glyph (by omega) hrun hready hinc
    rw [← hcfgT] at hrunT
    obtain ⟨u, hu, hrunU, hreadyU, hcfgU, hstatusesU, hloadU⟩ :=
      ih (by omega) hrunT hreadyT (hloadT.increment.trans hinc)
    rw [Nat.add_assoc, Nat.add_comm 1] at hloadU
    rw [Nat.mul_succ, Nat.add_comm]
    exact ⟨u, (runSteps_add ht _).trans hu, hrunU, hreadyU, hcfgU.trans hcfgT, hstatusesU.trans hstatusesT,
      hloadT.trans hloadU (by omega) (by omega)⟩

/-- The DDRAM return ends LDGLY: it moves the counter to DDRAM address 0 and touches no RAM (R104). -/
theorem runSteps_returnToDdram {s : State} {byte : Nat → Byte} {q : Nat}
    (hrun : Running s (byteWrite s.cfg .instruction returnToDdram)) (hready : LcdReady s) :
    ∃ t, runSteps 9 s = .next t ∧ t.seq = .idle ∧ t.statuses = s.statuses ++ [.ok] ∧ LcdReady t ∧ t.lcd.ac = .ddram 0 ∧
      RowsLoaded byte q q s.lcd t.lcd := by
  obtain ⟨hl, hseq⟩ := hrun
  obtain ⟨hsync, hiface, -⟩ := id hready
  rw [← List.append_nil (byteWrite _ _ _)] at hseq
  have restored := runSteps_instructionByte (i := .setDdramAddr 0) ⟨hl, hseq⟩ hready (by decide)
  have completed := step_of_traceEmpty (s := afterInstructionByte (.setDdramAddr 0) returnToDdram [] s) ⟨hl, rfl⟩
  exact ⟨_, (runSteps_add restored 1).trans (runSteps_of_step completed 0), rfl, rfl, ⟨hsync, hiface, rfl⟩, rfl,
    .of_same rfl rfl rfl⟩

section Ldgly
variable {s : State} {cnt : BitVec 4} {addr : BitVec 16} {ms : List HostMove}
  (hnext : NextMove s (.issue (commandWord 0x7 cnt addr 0)) ms) (hmin : 1 ≤ cnt.toNat)
include hnext hmin

/-- The step that issues LDGLY of a set that passes the check. -/
theorem step_of_ldgly {rows : List Byte} (hread : readGlyphSet s cnt.toNat addr.toNat = .ok rows) :
    ∃ t, step s = .next t ∧
      Running t (glyphsTrace t.cfg 0 cnt.toNat rows ++ byteWrite t.cfg .instruction returnToDdram) ∧
      t.sync = s.sync ∧ t.lcd = s.lcd ∧ t.statuses = s.statuses := by
  obtain ⟨hl, -⟩ := id hnext
  have hissue := step_of_issue_accepted (i := .ldgly cnt addr) hnext rfl (commandTrace_ldgly_ok hread)
  rw [ldglyTrace_of_ne_zero _ (Nat.one_le_iff_ne_zero.1 hmin)] at hissue
  exact ⟨_, hissue, ⟨hl, rfl⟩, rfl, rfl, rfl⟩

/-- LDGLY on a ready LCD, run to its end (R97): issued, its glyphs, the DDRAM return. -/
theorem runSteps_ldgly (hmax : cnt.toNat ≤ 8) {byte : Nat → Byte}
    (hread : readGlyphSet s cnt.toNat addr.toNat = .ok ((List.range' 0 (8 * cnt.toNat)).map byte))
    (hready : LcdReady s) (hinc : s.lcd.increment = true) :
    ∃ t, runSteps (72 * cnt.toNat + 10) s = .next t ∧ t.seq = .idle ∧ t.statuses = s.statuses ++ [.ok] ∧ LcdReady t ∧
      t.lcd.ac = .ddram 0 ∧ RowsLoaded byte 0 (8 * cnt.toNat) s.lcd t.lcd := by
  obtain ⟨t, issued, hrunT, hsync, hlcd, hstatusesT⟩ := step_of_ldgly hnext hmin hread
  rw [LcdReady, ← hsync, ← hlcd] at hready
  rw [← hlcd] at hinc
  obtain ⟨u, glyphs, hrunU, hreadyU, hcfg, hstatusesU, hload⟩ := runSteps_glyphs (k := 0) (by omega) hrunT hready hinc
  rw [← hcfg] at hrunU
  obtain ⟨v, restored, hidle, hstatusesV, hreadyV, hac, hkept⟩ := runSteps_returnToDdram (byte := byte) hrunU hreadyU
  rw [Nat.mul_zero, Nat.zero_add, hlcd] at hload
  refine ⟨v, (runSteps_of_step issued _).trans ((runSteps_add glyphs 9).trans restored), hidle, ?_, hreadyV, hac,
    hload.trans hkept (Nat.zero_le _) le_rfl⟩
  rw [hstatusesV, hstatusesU, hstatusesT]

end Ldgly

/-! ### The glyphs shown (R77, R107) -/

/-- Codes `k` and `8 + k` select slot `k` (R77). -/
theorem glyphSlot_eq_some {code : Byte} {k : Nat} (hk : k < 8) (hcode : code.toNat = k ∨ code.toNat = 8 + k) :
    glyphSlot code = some (BitVec.ofNat 3 k) := by
  have hslot : code.extractLsb' 0 3 = BitVec.ofNat 3 k := by
    apply BitVec.eq_of_toNat_eq
    rw [BitVec.extractLsb'_toNat, BitVec.toNat_ofNat, Nat.shiftRight_zero]
    omega
  rw [glyphSlot, if_pos (by omega), hslot]

/-- Row `r` of slot `k` is in CGRAM byte `8 * k + r` (R34). -/
theorem glyphRow_eq (l : Lcd) {k r : Nat} (hk : k < 8) (hr : r < 8) :
    glyphRow l (BitVec.ofNat 3 k) (BitVec.ofNat 3 r) = (l.cgram[8 * k + r]).extractLsb' 0 5 := by
  have address : ∀ k r : Fin 8, (BitVec.ofNat 3 k ++ BitVec.ofNat 3 r).toNat = 8 * k.val + r.val := by decide
  simp only [glyphRow, address ⟨k, hk⟩ ⟨r, hr⟩]

/-- The codes of a loaded slot show the low five bits of the bytes it is loaded with (R107). -/
theorem RowsLoaded.shownPattern {byte : Nat → Byte} {q : Nat} {l l' : Lcd} (h : RowsLoaded byte 0 q l l') {k : Nat}
    (hk : k < 8) (hq : 8 * k + 8 ≤ q) {code : Byte} (hcode : code.toNat = k ∨ code.toNat = 8 + k) :
    shownPattern l' code = (List.range 8).map fun r => (byte (8 * k + r)).extractLsb' 0 5 := by
  rw [Machine.shownPattern, glyphSlot_eq_some hk hcode]
  refine List.map_congr_left fun r hr => ?_
  have hr8 : r < 8 := List.mem_range.1 hr
  rw [glyphRow_eq l' hk hr8, h.cgram _ (by omega), if_pos (by omega)]

/-- Settles O59: the run loads the slots from the first on with the rows the check read, and ends with the DDRAM
return. -/
theorem ldglyLoadsTheSlots : Obligations.LdglyLoadsTheSlots := by
  intro s cnt addr ms rows hnext hmin hread hready hinc
  obtain ⟨hmax, rfl⟩ := readGlyphSet_ok hmin hread
  obtain ⟨t, ht, hidle, hstatuses, hready', hac, hload⟩ := runSteps_ldgly hnext hmin hmax hread hready hinc
  refine ⟨t, ht, hidle, hstatuses, hready', hload.ddram, hac, fun x hx => ?cgram, fun k code hk hcode => ?shown⟩
  case cgram => simpa using hload.cgram x hx
  case shown => simpa only [Nat.add_assoc] using hload.shownPattern (by omega) (by omega) hcode

end Sys2Proof.Machine

/-! The exceptions family (60_exceptions.md): a rejection returns its status and changes nothing else (R109, R115). -/

namespace Sys2Proof.Machine

/-- The step that takes an issue move gives the word to the command port. -/
theorem step_of_issueMove {s : State} {w : CommandWord} {ms : List HostMove} (hnext : NextMove s (.issue w) ms) :
    step s = issueWord w (s.setScript ms) := by
  obtain ⟨hl, hs, hm⟩ := hnext
  rw [step, if_pos hl, advance_of_move hs hm]
  rfl

/-- Settles O40: an accepted command returns no status in the step that issues it; each of the two rejections is the state
with its status added. -/
theorem rejectionChangesNothing : Obligations.RejectionChangesNothing := by
  intro s t w ms hnext h hstatus
  rw [step_of_issueMove hnext] at h
  obtain ⟨-, ⟨i, tr, -, rfl⟩ | rfl | rfl⟩ := issueWord_next h
  · exact absurd rfl hstatus
  · exact ⟨.invalidArgument, nofun, rfl⟩
  · exact ⟨.illegalCommand, nofun, rfl⟩

end Sys2Proof.Machine

/-! The reset and hazards family (70_reset_and_hazards.md): the wait of an Idle block (R124), and that the block never strobes
an LCD that may be busy (R127). -/

namespace Sys2Proof.Machine

/-- Settles O15. -/
theorem idleBlockWaits : Obligations.IdleBlockWaits := by
  intro s hl hidle hm
  rw [step, if_pos hl, advance_of_noMove hidle hm]

/-! ### Paced traces (R127) -/

/-- Events paced for a busy LCD are paced for any: they wait before they strobe. -/
theorem paced_of_paced_busy {tr : List Event} (h : paced true tr = true) (b : Bool) : paced b tr = true := by
  induction tr with
  | nil => cases h
  | cons ev tr ih =>
    cases ev with
    | setMode m => exact ih h
    | setData n => exact ih h
    | strobe => cases h
    | wait n => exact h

/-- A paced trace leaves the LCD not busy for the events after it. -/
theorem paced_append {b : Bool} {xs : List Event} (h : paced b xs = true) (ys : List Event) :
    paced b (xs ++ ys) = paced false ys := by
  induction xs generalizing b with
  | nil =>
    obtain rfl : b = false := by simpa [paced] using h
    rfl
  | cons ev xs ih =>
    cases ev with
    | setMode m => exact ih h
    | setData n => exact ih h
    | strobe =>
      obtain ⟨hb, hrest⟩ := Bool.and_eq_true_iff.1 h
      rw [List.cons_append, paced, hb, Bool.true_and, ih hrest]
    | wait n => exact ih h

/-- Each of the two nibbles of a byte write ends in a wait (R62, R63). -/
theorem paced_byteWrite_append (c : Config) (m : Mode) (b : Byte) (ys : List Event) :
    paced false (byteWrite c m b ++ ys) = paced false ys := paced_append rfl ys

/-- Any number of byte writes in one mode: a string, or the rows of a glyph. -/
theorem paced_flatMap_byteWrite (c : Config) (m : Mode) (bytes : List Byte) :
    paced false (bytes.flatMap (byteWrite c m)) = true := by
  induction bytes with
  | nil => rfl
  | cons b bytes ih => rw [List.flatMap_cons, paced_byteWrite_append, ih]

theorem paced_glyphsTrace (c : Config) (k n : Nat) (rows : List Byte) : paced false (glyphsTrace c k n rows) = true := by
  induction n generalizing k rows with
  | zero => rfl
  | succ n ih =>
    rw [glyphsTrace, List.append_assoc, paced_byteWrite_append, paced_append (paced_flatMap_byteWrite c .data _), ih]

theorem paced_ldglyTrace (c : Config) (n : Nat) (rows : List Byte) : paced false (ldglyTrace c n rows) = true := by
  unfold ldglyTrace
  split
  · rfl
  · rw [paced_append (paced_glyphsTrace c 0 n rows)]; rfl

/-- INIT waits before its first strobe (R79), so its trace is paced for a busy LCD too. -/
theorem paced_initTrace (c : Config) (b : Bool) : paced b (initTrace c) = true := by
  have start : paced b [.setMode .instruction, .wait c.tPowerOn] = true := rfl
  simp only [initTrace, clearHomeTrace, List.append_assoc, paced_append start, paced_byteWrite_append]
  rfl

/-- The trace of every command is paced for an LCD that is not busy. -/
theorem paced_commandTrace {i : Instr} {s : State} {tr : List Event} (h : commandTrace i s = .ok tr) :
    paced false tr = true := by
  cases i with
  | init =>
    cases h
    exact paced_initTrace s.cfg false
  | wstr addr =>
    cases hread : readString s addr.toNat with
    | ok bytes =>
      cases (commandTrace_wstr_ok hread).symm.trans h
      exact paced_flatMap_byteWrite s.cfg .data bytes
    | error st => cases (commandTrace_wstr_error hread).symm.trans h
  | ldgly cnt addr =>
    cases hread : readGlyphSet s cnt.toNat addr.toNat with
    | ok rows =>
      cases (commandTrace_ldgly_ok hread).symm.trans h
      exact paced_ldglyTrace s.cfg cnt.toNat rows
    | error st => cases (commandTrace_ldgly_error hread).symm.trans h
  | _ => cases h; rfl

/-! ### Every step keeps the LCD paced -/

/-- When the block is Idle, paced means that the LCD is not busy. -/
theorem lcdPaced_of_idle {s : State} (hidle : s.seq = .idle) : LcdPaced s ↔ s.lcd.busy = false := by
  simp [LcdPaced, hidle, Seq.rest, paced]

/-- After an event the events still ahead are paced for the LCD it leaves, in whatever state a strobe leaves it. -/
theorem paced_perform {s : State} {ev : Event} {rest : List Event} (h : paced s.lcd.busy (ev :: rest) = true) :
    paced (perform ev s).lcd.busy rest = true := by
  cases ev with
  | setMode m => exact h
  | setData n => exact h
  | strobe => exact paced_of_paced_busy (Bool.and_eq_true_iff.1 h).2 _
  | wait n => exact h

/-- A command issued to an Idle block finds the LCD not busy and puts its paced trace ahead; a rejection puts nothing. -/
theorem issueWord_lcdPaced {w : CommandWord} {s t : State} (hp : LcdPaced s) (h : issueWord w s = .next t) :
    LcdPaced t := by
  unfold issueWord at h
  split at h
  next i hd =>
    rw [exec_command (decodeCommand_isCommand hd)] at h
    obtain ⟨hidle, ⟨tr, htr, rfl⟩ | ⟨st, -, rfl⟩⟩ := acceptChecked_next h
    · have hbusy : s.lcd.busy = false := (lcdPaced_of_idle hidle).1 hp
      change paced s.lcd.busy tr = true
      rw [hbusy, paced_commandTrace htr]
    · exact hp
  next =>
    obtain ⟨-, rfl⟩ := reject_next h
    exact hp

/-- A step that does not cycle the power keeps the LCD paced. -/
theorem step_lcdPaced {s t : State} (hp : LcdPaced s) (hpower : noPowerCycle s.script = true) (h : step s = .next t) :
    LcdPaced t := by
  obtain ⟨-, ⟨ev, rest, hs, rfl⟩ | ⟨hs, rfl⟩ | ⟨-, -, rfl⟩ | ⟨-, w, ms, -, hw⟩ | ⟨-, a, b, ms, -, -, rfl⟩ |
    ⟨-, ms, hm, -⟩⟩ := step_cases h
  · rw [LcdPaced, hs] at hp
    rw [LcdPaced, perform_seq]
    exact paced_perform (s := s.setSeq (.busy rest)) hp
  · rw [LcdPaced, hs] at hp
    exact hp
  · exact hp
  · exact issueWord_lcdPaced (s := s.setScript ms) hp hw
  · exact hp
  · rw [hm] at hpower
    cases hpower

/-- A step takes at most the first move off the host's list. -/
theorem step_script {s t : State} (h : step s = .next t) : t.script = s.script ∨ ∃ m, s.script = m :: t.script := by
  obtain ⟨-, ⟨ev, rest, -, rfl⟩ | ⟨-, rfl⟩ | ⟨-, -, rfl⟩ | ⟨-, w, ms, hm, hw⟩ | ⟨-, a, b, ms, hm, -, rfl⟩ |
    ⟨-, ms, hm, rfl⟩⟩ := step_cases h
  · exact .inl (perform_script ev _)
  · exact .inl rfl
  · exact .inl rfl
  · obtain ⟨-, ⟨i, tr, -, rfl⟩ | rfl | rfl⟩ := issueWord_next hw <;> exact .inr ⟨_, hm⟩
  · exact .inr ⟨_, hm⟩
  · exact .inr ⟨_, hm⟩

theorem step_noPowerCycle {s t : State} (hpower : noPowerCycle s.script = true) (h : step s = .next t) :
    noPowerCycle t.script = true := by
  obtain hsame | ⟨m, hm⟩ := step_script h
  · rw [hsame, hpower]
  · rw [hm] at hpower
    exact (Bool.and_eq_true_iff.1 hpower).2

/-- Settles O55: each of the things a step can do but a power cycle keeps the LCD paced, and INIT's trace is paced for any
LCD. -/
theorem stepKeepsLcdPaced : Obligations.StepKeepsLcdPaced := by
  refine ⟨fun s t hp hpower h => ⟨step_lcdPaced hp hpower h, step_noPowerCycle hpower h⟩, fun s hidle => ?_⟩
  exact ⟨_, exec_of_commandTrace_ok rfl hidle rfl, paced_initTrace s.cfg s.lcd.busy⟩

end Sys2Proof.Machine
